-- ==== Sys2Proof/Word.lean ====
section
/-! DEFINITION. The word types of the block (00_scope.md R5): bytes, 16-bit words, 12-bit addresses as they stand in
an opcode, and the index types of the register file, the keypad and the framebuffer. -/

namespace Sys2Proof

/-- A byte: the width of V0..VF, DT, ST and of a memory cell (R5, REG_WIDTH). -/
abbrev Byte := BitVec 8

/-- A 16-bit word: I, PC, a stack entry, an opcode (R5). -/
abbrev Word := BitVec 16

/-- A 12-bit address field NNN of an opcode (R42). -/
abbrev Addr12 := BitVec 12

/-- A register index 0x0..0xF (R11: NREGS = 16). -/
abbrev Reg := Fin 16

/-- A key symbol 0x0..0xF (R20). -/
abbrev Key := Fin 16

/-- A framebuffer column, left to right (R19: 64 columns). -/
abbrev Col := Fin 64

/-- A framebuffer line, top to bottom (R19: 32 lines). -/
abbrev Line := Fin 32

/-- Register VF, index 0xF, the flag register (R12). -/
def regVF : Reg := 15

/-- Two bytes as a word, most significant byte first (R29: big-endian). -/
abbrev Word.ofBytes (hi lo : Byte) : Word := hi ++ lo

/-- The most significant byte of a word. -/
abbrev Word.hiByte (w : Word) : Byte := w.extractLsb' 8 8

/-- The least significant byte of a word. -/
abbrev Word.loByte (w : Word) : Byte := w.extractLsb' 0 8

end Sys2Proof
end

