-- ==== Sys2Proof/Config.lean ====
section
/-! DEFINITION. The configuration parameters of 00_scope.md R6, fixed at construction, with the defaults the spec
gives them, and the free byte of the RNG port. -/

namespace Sys2Proof

/-- SHIFT_SOURCE (R6, D14): the register 8XY6 and 8XYE shift. -/
inductive ShiftSource where
  | vx
  | vy
deriving DecidableEq, Repr

/-- JUMP_BASE (R6, D15): the base register of BNNN. -/
inductive JumpBase where
  | v0
  | vx
deriving DecidableEq, Repr

/-- DATA_ADDR_POLICY (R6, R33, D7): what a data access above 0xFFF does. -/
inductive DataAddrPolicy where
  | reject
  | mask
deriving DecidableEq, Repr

/-- The configuration of one block (R6). FONT_BASE + 79 <= 0x1FF is carried by the type of `fontBase`
(0x1FF - 79 = 432), and the 80 bytes of FONT_TABLE by the length of `fontTable`. -/
structure Config where
  shiftSource    : ShiftSource
  jumpBase       : JumpBase
  fontBase       : Fin 433
  fontTable      : Vector Byte 80
  dataAddrPolicy : DataAddrPolicy
deriving DecidableEq, Repr

/-- The default FONT_TABLE (R115): sixteen glyphs of five bytes, glyph d at offset 5d. -/
def defaultFont : Vector Byte 80 :=
  #v[
    0xF0, 0x90, 0x90, 0x90, 0xF0,  -- 0
    0x20, 0x60, 0x20, 0x20, 0x70,  -- 1
    0xF0, 0x10, 0xF0, 0x80, 0xF0,  -- 2
    0xF0, 0x10, 0xF0, 0x10, 0xF0,  -- 3
    0x90, 0x90, 0xF0, 0x10, 0x10,  -- 4
    0xF0, 0x80, 0xF0, 0x10, 0xF0,  -- 5
    0xF0, 0x80, 0xF0, 0x90, 0xF0,  -- 6
    0xF0, 0x10, 0x20, 0x40, 0x40,  -- 7
    0xF0, 0x90, 0xF0, 0x90, 0xF0,  -- 8
    0xF0, 0x90, 0xF0, 0x10, 0xF0,  -- 9
    0xF0, 0x90, 0xF0, 0x90, 0x90,  -- A
    0xE0, 0x90, 0xE0, 0x90, 0xE0,  -- B
    0xF0, 0x80, 0x80, 0x80, 0xF0,  -- C
    0xE0, 0x90, 0x90, 0x90, 0xE0,  -- D
    0xF0, 0x80, 0xF0, 0x80, 0xF0,  -- E
    0xF0, 0x80, 0xF0, 0x80, 0x80]  -- F

/-- The configuration with every parameter at the default of R6. -/
def Config.default : Config where
  shiftSource    := .vx
  jumpBase       := .v0
  fontBase       := 0x050
  fontTable      := defaultFont
  dataAddrPolicy := .reject

/-- FREE VALUE (R77, D27, log 3): the byte the RNG port returns at the draw with this number, where no injected
byte is known. It has no body, so nothing in Lean can tell what it is. -/
opaque Config.freeByte : Nat → Byte

end Sys2Proof
end

