-- ==== Sys2Proof/Syntax.lean ====
section
/-! DEFINITION. The 34 instructions of spec/opcode_table.json (30_encoding.md R44), one constructor each, in the
table's order. Operands are decoded values: register indexes, unsigned immediates, a 12-bit address, a row count. -/

namespace Sys2Proof

/-- One constructor per row of spec/opcode_table.json. `x` and `y` name registers, `nn` is an immediate byte, `nnn`
a 12-bit address, `n` a sprite row count (R42, R43). -/
inductive Instr where
  /-- 00E0 `CLS` (R85). -/
  | cls
  /-- 00EE `RET` (R56). -/
  | ret
  /-- 1NNN `JP nnn` (R57). -/
  | jp (nnn : Addr12)
  /-- 2NNN `CALL nnn` (R58). -/
  | call (nnn : Addr12)
  /-- 3XNN `SE Vx, nn` (R59). -/
  | seImm (x : Reg) (nn : Byte)
  /-- 4XNN `SNE Vx, nn` (R60). -/
  | sneImm (x : Reg) (nn : Byte)
  /-- 5XY0 `SE Vx, Vy` (R61). -/
  | seReg (x y : Reg)
  /-- 6XNN `LD Vx, nn` (R66). -/
  | ldImm (x : Reg) (nn : Byte)
  /-- 7XNN `ADD Vx, nn` (R67). -/
  | addImm (x : Reg) (nn : Byte)
  /-- 8XY0 `LD Vx, Vy` (R68). -/
  | ldReg (x y : Reg)
  /-- 8XY1 `OR Vx, Vy` (R69). -/
  | orReg (x y : Reg)
  /-- 8XY2 `AND Vx, Vy` (R70). -/
  | andReg (x y : Reg)
  /-- 8XY3 `XOR Vx, Vy` (R71). -/
  | xorReg (x y : Reg)
  /-- 8XY4 `ADD Vx, Vy` (R72). -/
  | addReg (x y : Reg)
  /-- 8XY5 `SUB Vx, Vy` (R73). -/
  | subReg (x y : Reg)
  /-- 8XY6 `SHR Vx, Vy` (R74). -/
  | shr (x y : Reg)
  /-- 8XY7 `SUBN Vx, Vy` (R75). -/
  | subn (x y : Reg)
  /-- 8XYE `SHL Vx, Vy` (R76). -/
  | shl (x y : Reg)
  /-- 9XY0 `SNE Vx, Vy` (R62). -/
  | sneReg (x y : Reg)
  /-- ANNN `LD I, nnn` (R78). -/
  | ldI (nnn : Addr12)
  /-- BNNN `JP V0, nnn` (R63). Its X is NNN[11:8], read under JUMP_BASE = VX. -/
  | jpV0 (nnn : Addr12)
  /-- CXNN `RND Vx, nn` (R77). -/
  | rnd (x : Reg) (nn : Byte)
  /-- DXYN `DRW Vx, Vy, n` (R86). -/
  | drw (x y : Reg) (n : Nat)
  /-- EX9E `SKP Vx` (R90). -/
  | skp (x : Reg)
  /-- EXA1 `SKNP Vx` (R91). -/
  | sknp (x : Reg)
  /-- FX07 `LD Vx, DT` (R87). -/
  | ldVxDt (x : Reg)
  /-- FX0A `LD Vx, K` (R92). -/
  | ldVxK (x : Reg)
  /-- FX15 `LD DT, Vx` (R88). -/
  | ldDtVx (x : Reg)
  /-- FX18 `LD ST, Vx` (R89). -/
  | ldStVx (x : Reg)
  /-- FX1E `ADD I, Vx` (R79). -/
  | addIVx (x : Reg)
  /-- FX29 `LD F, Vx` (R80). -/
  | ldFVx (x : Reg)
  /-- FX33 `LD B, Vx` (R81). -/
  | ldBVx (x : Reg)
  /-- FX55 `LD [I], Vx` (R82). -/
  | ldMemVx (x : Reg)
  /-- FX65 `LD Vx, [I]` (R83). -/
  | ldVxMem (x : Reg)
deriving DecidableEq, Repr

end Sys2Proof
end

