-- ==== Sys2Proof/WellFormed.lean ====
section
/-! DEFINITION. When an instruction term has an encoding. Register indexes, immediates and addresses are bounded by
their types; the one check left is the sprite row count N of DXYN, a count 0..15 (00_scope.md R5, SPRITE_MAX_ROWS;
30_encoding.md R43). -/

namespace Sys2Proof

/-- SPRITE_MAX_ROWS (R5): N is four bits. -/
abbrev spriteMaxRows : Nat := 15

/-- The instruction has an encoding: for DXYN, N is at most 15 (R43); every other operand is bounded by its type. -/
def Instr.wf : Instr → Bool
  | .drw _ _ n => n ≤ spriteMaxRows
  | .cls | .ret | .jp _ | .call _ | .seImm _ _ | .sneImm _ _ | .seReg _ _ | .ldImm _ _ | .addImm _ _
  | .ldReg _ _ | .orReg _ _ | .andReg _ _ | .xorReg _ _ | .addReg _ _ | .subReg _ _ | .shr _ _ | .subn _ _
  | .shl _ _ | .sneReg _ _ | .ldI _ | .jpV0 _ | .rnd _ _ | .skp _ | .sknp _ | .ldVxDt _ | .ldVxK _
  | .ldDtVx _ | .ldStVx _ | .addIVx _ | .ldFVx _ | .ldBVx _ | .ldMemVx _ | .ldVxMem _ => true

end Sys2Proof
end

