-- ==== Sys2Proof/Decode.lean ====
section
/-! DEFINITION. Decoding (30_encoding.md R41..R47): the fields of an opcode word, the dispatch of R45 from a word to an
instruction, the decoder over bytes, the encoder, and the mask and match of each row of spec/opcode_table.json. -/

namespace Sys2Proof

/-! ## Fields (R42) -/

/-- F = op[15:12], the primary family (R42). -/
def fieldF (op : Word) : BitVec 4 := op.extractLsb' 12 4

/-- X = op[11:8], a register index (R42, R43). -/
def fieldX (op : Word) : Reg := (op.extractLsb' 8 4).toFin

/-- Y = op[7:4], a register index (R42, R43). -/
def fieldY (op : Word) : Reg := (op.extractLsb' 4 4).toFin

/-- N = op[3:0], a row count or a sub-opcode (R42). -/
def fieldN (op : Word) : BitVec 4 := op.extractLsb' 0 4

/-- NN = op[7:0], an immediate byte or a sub-opcode (R42). -/
def fieldNN (op : Word) : Byte := op.extractLsb' 0 8

/-- NNN = op[11:0], an address (R42). -/
def fieldNNN (op : Word) : Addr12 := op.extractLsb' 0 12

/-! ## Decoding a word (R45): `none` is a word that spells no instruction (R46) -/

/-- Family 0x0: the whole word is compared (R45, D13). -/
def decodeFamily0 (op : Word) : Option Instr :=
  if op = 0x00E0#16 then some .cls
  else if op = 0x00EE#16 then some .ret
  else none

/-- Family 0x8: dispatch on N (R45). -/
def decodeFamily8 (op : Word) : Option Instr :=
  let x := fieldX op
  let y := fieldY op
  match (fieldN op).toNat with
  | 0x0 => some (.ldReg x y)
  | 0x1 => some (.orReg x y)
  | 0x2 => some (.andReg x y)
  | 0x3 => some (.xorReg x y)
  | 0x4 => some (.addReg x y)
  | 0x5 => some (.subReg x y)
  | 0x6 => some (.shr x y)
  | 0x7 => some (.subn x y)
  | 0xE => some (.shl x y)
  | _   => none

/-- Family 0xE: dispatch on NN (R45). -/
def decodeFamilyE (op : Word) : Option Instr :=
  let x := fieldX op
  match (fieldNN op).toNat with
  | 0x9E => some (.skp x)
  | 0xA1 => some (.sknp x)
  | _    => none

/-- Family 0xF: dispatch on NN (R45). -/
def decodeFamilyF (op : Word) : Option Instr :=
  let x := fieldX op
  match (fieldNN op).toNat with
  | 0x07 => some (.ldVxDt x)
  | 0x0A => some (.ldVxK x)
  | 0x15 => some (.ldDtVx x)
  | 0x18 => some (.ldStVx x)
  | 0x1E => some (.addIVx x)
  | 0x29 => some (.ldFVx x)
  | 0x33 => some (.ldBVx x)
  | 0x55 => some (.ldMemVx x)
  | 0x65 => some (.ldVxMem x)
  | _    => none

/-- Decode(op) of R45: dispatch on the top nibble, then on the low byte or nibble. `none` where R45 raises
UnknownOpcode(op). The last arm is 0xF: the family has four bits. -/
def decodeWord (op : Word) : Option Instr :=
  match (fieldF op).toNat with
  | 0x0 => decodeFamily0 op
  | 0x1 => some (.jp (fieldNNN op))
  | 0x2 => some (.call (fieldNNN op))
  | 0x3 => some (.seImm (fieldX op) (fieldNN op))
  | 0x4 => some (.sneImm (fieldX op) (fieldNN op))
  | 0x5 => if fieldN op = 0x0#4 then some (.seReg (fieldX op) (fieldY op)) else none
  | 0x6 => some (.ldImm (fieldX op) (fieldNN op))
  | 0x7 => some (.addImm (fieldX op) (fieldNN op))
  | 0x8 => decodeFamily8 op
  | 0x9 => if fieldN op = 0x0#4 then some (.sneReg (fieldX op) (fieldY op)) else none
  | 0xA => some (.ldI (fieldNNN op))
  | 0xB => some (.jpV0 (fieldNNN op))
  | 0xC => some (.rnd (fieldX op) (fieldNN op))
  | 0xD => some (.drw (fieldX op) (fieldY op) (fieldN op).toNat)
  | 0xE => decodeFamilyE op
  | _   => decodeFamilyF op

/-! ## Decoding bytes (R29, R41) -/

/-- Why a byte sequence does not decode: the word spells no instruction (R46, with the raw word), or fewer than the
two bytes of an instruction are there (R41). -/
inductive DecodeError where
  | unknownOpcode (raw : Word)
  | truncated (length : Nat)
deriving DecidableEq, Repr

/-- The decoder over any bytes: two bytes, most significant first (R29, R41), and the rest of the bytes. -/
def decode : List Byte → Except DecodeError (Instr × List Byte)
  | hi :: lo :: rest =>
    match decodeWord (Word.ofBytes hi lo) with
    | some i => .ok (i, rest)
    | none   => .error (.unknownOpcode (Word.ofBytes hi lo))
  | [_] => .error (.truncated 1)
  | []  => .error (.truncated 0)

/-- The word of an opcode-table row of `nbits` bits, the bits above `nbits` zero (every row has 16 bits, R41). -/
def tableWord (nbits w : Nat) : Word := BitVec.ofNat 16 (w % 2 ^ nbits)

/-- The instruction the decoder reads from the word `w`, laid out in memory order (big-endian, R29). -/
def decodeTableWord (nbits w : Nat) : Option Instr :=
  let op := tableWord nbits w
  match decode [op.hiByte, op.loByte] with
  | .ok (i, _) => some i
  | .error _   => none

/-! ## Encoding (R44) -/

/-- A register index as a four-bit field. -/
abbrev Reg.bits (r : Reg) : BitVec 4 := BitVec.ofFin r

/-- The encoding string `ffff aaaa aaaa aaaa` of format ADDR (R44). -/
def wordAddr (f : BitVec 4) (nnn : Addr12) : Word := f ++ nnn

/-- The encoding string `ffff xxxx kkkk kkkk` of formats REG_IMM and REG (R44). -/
def wordRegByte (f : BitVec 4) (x : Reg) (k : Byte) : Word := (f ++ x.bits) ++ k

/-- The encoding string `ffff xxxx yyyy nnnn` of formats REG_REG and DRAW (R44). -/
def wordRegReg (f : BitVec 4) (x y : Reg) (n : BitVec 4) : Word := (f ++ x.bits) ++ (y.bits ++ n)

/-- The word of an instruction, from the encoding strings of spec/opcode_table.json (R44). -/
def encode : Instr → Word
  | .cls        => 0x00E0#16
  | .ret        => 0x00EE#16
  | .jp a       => wordAddr 0x1#4 a
  | .call a     => wordAddr 0x2#4 a
  | .seImm x k  => wordRegByte 0x3#4 x k
  | .sneImm x k => wordRegByte 0x4#4 x k
  | .seReg x y  => wordRegReg 0x5#4 x y 0x0#4
  | .ldImm x k  => wordRegByte 0x6#4 x k
  | .addImm x k => wordRegByte 0x7#4 x k
  | .ldReg x y  => wordRegReg 0x8#4 x y 0x0#4
  | .orReg x y  => wordRegReg 0x8#4 x y 0x1#4
  | .andReg x y => wordRegReg 0x8#4 x y 0x2#4
  | .xorReg x y => wordRegReg 0x8#4 x y 0x3#4
  | .addReg x y => wordRegReg 0x8#4 x y 0x4#4
  | .subReg x y => wordRegReg 0x8#4 x y 0x5#4
  | .shr x y    => wordRegReg 0x8#4 x y 0x6#4
  | .subn x y   => wordRegReg 0x8#4 x y 0x7#4
  | .shl x y    => wordRegReg 0x8#4 x y 0xE#4
  | .sneReg x y => wordRegReg 0x9#4 x y 0x0#4
  | .ldI a      => wordAddr 0xA#4 a
  | .jpV0 a     => wordAddr 0xB#4 a
  | .rnd x k    => wordRegByte 0xC#4 x k
  | .drw x y n  => wordRegReg 0xD#4 x y (BitVec.ofNat 4 n)
  | .skp x      => wordRegByte 0xE#4 x 0x9E#8
  | .sknp x     => wordRegByte 0xE#4 x 0xA1#8
  | .ldVxDt x   => wordRegByte 0xF#4 x 0x07#8
  | .ldVxK x    => wordRegByte 0xF#4 x 0x0A#8
  | .ldDtVx x   => wordRegByte 0xF#4 x 0x15#8
  | .ldStVx x   => wordRegByte 0xF#4 x 0x18#8
  | .addIVx x   => wordRegByte 0xF#4 x 0x1E#8
  | .ldFVx x    => wordRegByte 0xF#4 x 0x29#8
  | .ldBVx x    => wordRegByte 0xF#4 x 0x33#8
  | .ldMemVx x  => wordRegByte 0xF#4 x 0x55#8
  | .ldVxMem x  => wordRegByte 0xF#4 x 0x65#8

/-- The two bytes of an instruction as they lie in memory, most significant first (R29). -/
def encodeBytes (i : Instr) : List Byte := [(encode i).hiByte, (encode i).loByte]

/-! ## The opcode table -/

/-- A row of spec/opcode_table.json: a word spells the row's instruction when `op &&& mask = pattern`. -/
structure OpcodeRow where
  mask    : Word
  pattern : Word
deriving DecidableEq, Repr

/-- The table's row of each instruction: its "mask" and its "match", as the table writes them. -/
def Instr.row : Instr → OpcodeRow
  | .cls        => ⟨0xFFFF, 0x00E0⟩
  | .ret        => ⟨0xFFFF, 0x00EE⟩
  | .jp _       => ⟨0xF000, 0x1000⟩
  | .call _     => ⟨0xF000, 0x2000⟩
  | .seImm _ _  => ⟨0xF000, 0x3000⟩
  | .sneImm _ _ => ⟨0xF000, 0x4000⟩
  | .seReg _ _  => ⟨0xF00F, 0x5000⟩
  | .ldImm _ _  => ⟨0xF000, 0x6000⟩
  | .addImm _ _ => ⟨0xF000, 0x7000⟩
  | .ldReg _ _  => ⟨0xF00F, 0x8000⟩
  | .orReg _ _  => ⟨0xF00F, 0x8001⟩
  | .andReg _ _ => ⟨0xF00F, 0x8002⟩
  | .xorReg _ _ => ⟨0xF00F, 0x8003⟩
  | .addReg _ _ => ⟨0xF00F, 0x8004⟩
  | .subReg _ _ => ⟨0xF00F, 0x8005⟩
  | .shr _ _    => ⟨0xF00F, 0x8006⟩
  | .subn _ _   => ⟨0xF00F, 0x8007⟩
  | .shl _ _    => ⟨0xF00F, 0x800E⟩
  | .sneReg _ _ => ⟨0xF00F, 0x9000⟩
  | .ldI _      => ⟨0xF000, 0xA000⟩
  | .jpV0 _     => ⟨0xF000, 0xB000⟩
  | .rnd _ _    => ⟨0xF000, 0xC000⟩
  | .drw _ _ _  => ⟨0xF000, 0xD000⟩
  | .skp _      => ⟨0xF0FF, 0xE09E⟩
  | .sknp _     => ⟨0xF0FF, 0xE0A1⟩
  | .ldVxDt _   => ⟨0xF0FF, 0xF007⟩
  | .ldVxK _    => ⟨0xF0FF, 0xF00A⟩
  | .ldDtVx _   => ⟨0xF0FF, 0xF015⟩
  | .ldStVx _   => ⟨0xF0FF, 0xF018⟩
  | .addIVx _   => ⟨0xF0FF, 0xF01E⟩
  | .ldFVx _    => ⟨0xF0FF, 0xF029⟩
  | .ldBVx _    => ⟨0xF0FF, 0xF033⟩
  | .ldMemVx _  => ⟨0xF0FF, 0xF055⟩
  | .ldVxMem _  => ⟨0xF0FF, 0xF065⟩

/-- The 34 rows of spec/opcode_table.json in its order; the operands of each sample play no part. -/
def opcodeTable : List OpcodeRow :=
  ([.cls, .ret, .jp 0, .call 0, .seImm 0 0, .sneImm 0 0, .seReg 0 0, .ldImm 0 0, .addImm 0 0, .ldReg 0 0,
    .orReg 0 0, .andReg 0 0, .xorReg 0 0, .addReg 0 0, .subReg 0 0, .shr 0 0, .subn 0 0, .shl 0 0, .sneReg 0 0,
    .ldI 0, .jpV0 0, .rnd 0 0, .drw 0 0 0, .skp 0, .sknp 0, .ldVxDt 0, .ldVxK 0, .ldDtVx 0, .ldStVx 0,
    .addIVx 0, .ldFVx 0, .ldBVx 0, .ldMemVx 0, .ldVxMem 0] : List Instr).map Instr.row

end Sys2Proof
end

