-- ==== Sys2Proof/Machine/State.lean ====
section
/-! DEFINITION. The state of one block (10_state.md, R11..R22), the errors it raises (60_exceptions.md R94), what the
host contract refuses, and the state after construction (70_reset_and_hazards.md R114). INVENTORY.md, '## State',
lists every field with its rule. -/

namespace Sys2Proof.Machine

/-- The errors of the block (R94). Each is the result of a transaction and leaves the state as it was before (R98). -/
inductive Fault where
  /-- ExecError 1 (R95): raised by a fetch at an instruction address above 0xFFE, and under DATA_ADDR_POLICY = reject
  by DXYN, FX33, FX55 and FX65 at the first data address above 0xFFF; carries that address. Safe: the spec names it. -/
  | addressOutOfRange (addr : Nat)
  /-- ExecError 2 (R96): raised by decode for a word that spells no instruction; carries the raw word. Safe: the spec
  names it. -/
  | unknownOpcode (raw : Word)
  /-- ExecError 3 (R97): raised by 2NNN with SP = 16. Safe: the spec names it. -/
  | stackOverflow
  /-- ExecError 4 (R97): raised by 00EE with SP = 0. Safe: the spec names it. -/
  | stackUnderflow
  /-- LoadError 1 (R94, R116): raised by `load` with an image longer than 3584 bytes; carries its length. No step
  raises it. Safe: the spec names it. -/
  | imageTooLarge (length : Nat)
deriving DecidableEq, Repr

/-- What the model gives no effect to. -/
inductive Refusal where
  /-- Raised by an arm of `exec` whose instruction has no meaning yet; no arm does. Safe: nothing follows. -/
  | notModelled (mnemonic : String)
  /-- Raised by the host transaction `set_key` with a symbol outside 0..15, which the host contract excludes (R106,
  D35, I14); no step raises it. Safe: the state is unchanged. -/
  | keySymbolOutOfRange (symbol : Nat)
deriving DecidableEq, Repr

/-- The two output bits of a step (R53). -/
structure StepEffect where
  redraw : Bool
  halted : Bool
deriving DecidableEq, Repr

/-- Both output bits 0, as every step starts (R50). -/
def StepEffect.none : StepEffect := ⟨false, false⟩

/-- Memory (R21): the cells that differ from their reset contents, by strictly rising address (log 6). -/
abbrev Memory := List Host.Cell

/-- The framebuffer (R19): line y is `fb[y]`, and bit x of it is pixel (x, y). -/
abbrev Framebuffer := Vector (BitVec 64) 32

/-- The state of one block. -/
structure State where
  /-- The configuration bound at construction (R6); no transaction changes it (log 1). -/
  cfg        : Config
  /-- V0..VF (R11, R12). -/
  v          : Vector Byte 16
  /-- I, the address register (R14). -/
  i          : Word
  /-- PC (R13). -/
  pc         : Word
  /-- STACK[0..15] (R15). -/
  stack      : Vector Word 16
  /-- SP, 0..16 (R16). -/
  sp         : Fin 17
  /-- DT, the delay timer (R17). -/
  dt         : Byte
  /-- ST, the sound timer (R18). -/
  st         : Byte
  /-- FB (R19). -/
  fb         : Framebuffer
  /-- KEYS, bit k is KEYS[k] (R20). -/
  keys       : BitVec 16
  /-- MEM (R21). -/
  mem        : Memory
  /-- WAIT_ACTIVE (R22). -/
  waitActive : Bool
  /-- WAIT_X (R22). -/
  waitX      : Reg
  /-- WAIT_SNAP, bit k is the key k as the wait last saw it (R22). -/
  waitSnap   : BitVec 16
  /-- The model's own: the bytes the injected RNG source is known to return next (R6, R77, log 3). -/
  rngBytes   : List Byte
  /-- The model's own: how many bytes have been drawn from the RNG port (R77, log 3). -/
  rngDrawn   : Nat
  /-- The model's own: the outputs of the last successful step (R53, log 2); no operation reads them. -/
  effect     : StepEffect
deriving DecidableEq, Repr

/-- What a transaction that changes the state answers. -/
abbrev Result := Host.Outcome State Fault Refusal

/-- construct(config, rng) of R114: everything zero, PC = 0x200, memory at its reset contents (no cell listed). -/
def State.construct (cfg : Config) (rng : List Byte) : State where
  cfg        := cfg
  v          := Vector.replicate 16 0
  i          := 0
  pc         := 0x200
  stack      := Vector.replicate 16 0
  sp         := 0
  dt         := 0
  st         := 0
  fb         := Vector.replicate 32 0
  keys       := 0
  mem        := []
  waitActive := false
  waitX      := 0
  waitSnap   := 0
  rngBytes   := rng
  rngDrawn   := 0
  effect     := StepEffect.none

/-- The state after construction with the default configuration and a free RNG source (R6, R114). -/
def State.reset : State := State.construct Config.default []

end Sys2Proof.Machine
end

