-- ==== Sys2Proof/Machine/Memory.lean ====
section
/-! DEFINITION. Memory as plain data (20_memory.md R21, R26, R32): what an unlisted address reads as, the canonical
form, and reading and writing one byte. -/

namespace Sys2Proof.Machine

/-- MEM_SIZE (R5). -/
def memSize : Nat := 4096

/-- What an address that memory does not list reads as: its reset contents, the font at FONT_BASE and 0 everywhere
else (R21, R114). -/
def resetByte (c : Config) (a : Nat) : Byte :=
  if h : c.fontBase.val ≤ a ∧ a < c.fontBase.val + 80 then c.fontTable[a - c.fontBase.val]'(by omega) else 0

/-- The cells lie at strictly rising addresses from `lo` up, inside memory, and none holds its reset contents. -/
def Memory.wfFrom (c : Config) : Nat → Memory → Bool
  | _, [] => true
  | lo, (k, b) :: rest =>
    decide (lo ≤ k) && decide (k < memSize) && decide (b ≠ resetByte c k) && Memory.wfFrom c (k + 1) rest

/-- The canonical form of memory (log 6). -/
def Memory.wf (c : Config) (m : Memory) : Bool := Memory.wfFrom c 0 m

/-- The listed byte at an address, if any. -/
def Memory.find (a : Nat) : Memory → Option Byte
  | [] => none
  | (k, b) :: rest => if k = a then some b else Memory.find a rest

/-- The byte at an address (R32). -/
def Memory.read (c : Config) (m : Memory) (a : Nat) : Byte := (Memory.find a m).getD (resetByte c a)

/-- The memory with `b` listed at `a`. -/
def Memory.put (a : Nat) (b : Byte) : Memory → Memory
  | [] => [(a, b)]
  | (k, v) :: rest =>
    if a < k then (a, b) :: (k, v) :: rest
    else if a = k then (a, b) :: rest
    else (k, v) :: Memory.put a b rest

/-- The memory with nothing listed at `a`. -/
def Memory.drop (a : Nat) : Memory → Memory
  | [] => []
  | (k, v) :: rest => if k = a then rest else (k, v) :: Memory.drop a rest

/-- Write one byte, keeping the canonical form: a byte equal to the reset contents is not listed. -/
def Memory.write (c : Config) (m : Memory) (a : Nat) (b : Byte) : Memory :=
  if b = resetByte c a then Memory.drop a m else Memory.put a b m

/-- Single-byte writes in the order listed (R31). -/
def Memory.writeAll (c : Config) (m : Memory) : List Host.Cell → Memory
  | [] => m
  | (a, b) :: rest => Memory.writeAll c (Memory.write c m a b) rest

end Sys2Proof.Machine
end

