-- ==== Sys2Proof/Machine/Ops.lean ====
section
/-! DEFINITION. The named operations every instruction is written with (00_scope.md R9): registers, program counter,
stack controller, memory, outputs of the step, the RNG port; raising an error and what the block is left in after it
(60_exceptions.md R94..R101); fetching (30_encoding.md R51). -/

namespace Sys2Proof.Machine

/-! ## Registers and single fields -/

/-- `V[r]` (R9, R11). -/
def State.getV (s : State) (r : Reg) : Byte := s.v[r.val]

/-- `V[r] <- b` (R9, R11): no register is hard-wired. -/
def State.setV (s : State) (r : Reg) (b : Byte) : State := { s with v := s.v.set r.val b }

/-- Every general register replaced. -/
def State.setRegs (s : State) (v : Vector Byte 16) : State := { s with v := v }

/-- `pc <- target` (R9, R54): any 16-bit value may be written. -/
def State.setPc (s : State) (w : Word) : State := { s with pc := w }

/-- `I <- v` (R9, R14). -/
def State.setI (s : State) (w : Word) : State := { s with i := w }

/-- `DT <- v` (R17). -/
def State.setDt (s : State) (b : Byte) : State := { s with dt := b }

/-- `ST <- v` (R18). -/
def State.setSt (s : State) (b : Byte) : State := { s with st := b }

/-- The framebuffer replaced (R19). -/
def State.setFb (s : State) (f : Framebuffer) : State := { s with fb := f }

/-- The keypad latch replaced (R20); only the host's `set_key` does this. -/
def State.setKeys (s : State) (k : BitVec 16) : State := { s with keys := k }

/-- Memory replaced. -/
def State.setMem (s : State) (m : Memory) : State := { s with mem := m }

/-- The stack controller's array and pointer replaced (R15, R16). -/
def State.setStack (s : State) (st : Vector Word 16) (sp : Fin 17) : State := { s with stack := st, sp := sp }

/-- The wait sub-state replaced (R22). -/
def State.setWait (s : State) (active : Bool) (x : Reg) (snap : BitVec 16) : State :=
  { s with waitActive := active, waitX := x, waitSnap := snap }

/-- The RNG port's fields replaced (log 3). -/
def State.setRng (s : State) (bytes : List Byte) (drawn : Nat) : State :=
  { s with rngBytes := bytes, rngDrawn := drawn }

/-- The outputs of the step replaced (R53, log 2). -/
def State.setEffect (s : State) (e : StepEffect) : State := { s with effect := e }

/-- `effect.redraw <- 1` (R9, R53). -/
def State.requestRedraw (s : State) : State := s.setEffect { s.effect with redraw := true }

/-- `effect.halted <- 1` (R9, R53). -/
def State.reportHalted (s : State) : State := s.setEffect { s.effect with halted := true }

/-! ## Program counter -/

/-- The advance of every step (R52) and of a taken skip (R55): `pc <- (pc + 2) mod 2^16` (D12). -/
def State.advancePc (s : State) : State := s.setPc (s.pc + 2)

/-- "Skip next instruction (PC += 2)" when the condition holds (R55). -/
def State.skipIf (s : State) (cond : Bool) : State := s.setPc (if cond then s.pc + 2 else s.pc)

/-! ## Errors (R94..R101) -/

/-- Taking an exception on this block: `raise E(info)` ends the transaction with the error (R9, R98, R100). The block
has no trap vector, no handler, no saved trap state and no mode change, so nothing is written. -/
def raise (f : Fault) : Result := .fault f

/-- The return from it: the block has no return instruction; after an error it is in its pre-step state and accepts
any transaction (R98, R101). This is the state a transaction started in `s` leaves. -/
def State.settle (s : State) : Result → State
  | .next t    => t
  | .fault _   => s
  | .refused _ => s

/-- Go on with a checked value, or raise the error its check found (R10: checks come before the first write). -/
def orRaise {α : Type} (r : Except Fault α) (k : α → Result) : Result :=
  match r with
  | .ok a    => k a
  | .error f => raise f

/-- The two error classes of R94. -/
inductive ErrorClass where
  | exec
  | load
deriving DecidableEq, Repr

/-- The class and numeric code of an error (R94, D10). -/
def Fault.code : Fault → ErrorClass × Nat
  | .addressOutOfRange _ => (.exec, 1)
  | .unknownOpcode _     => (.exec, 2)
  | .stackOverflow       => (.exec, 3)
  | .stackUnderflow      => (.exec, 4)
  | .imageTooLarge _     => (.load, 1)

/-- The info an error records (R94): the offending address, the raw word, the image length, or none. -/
def Fault.info : Fault → Option Nat
  | .addressOutOfRange a => some a
  | .unknownOpcode raw   => some raw.toNat
  | .stackOverflow       => none
  | .stackUnderflow      => none
  | .imageTooLarge n     => some n

/-! ## Stack controller (R15, R16) -/

/-- STACK_DEPTH (R5). -/
def stackDepth : Nat := 16

/-- A push of the return address `pc`: STACK[SP] is written, then SP is incremented; StackOverflow when SP = 16
(R16, R58). -/
def State.pushPc (s : State) : Except Fault State :=
  if h : s.sp.val < 16 then .ok (s.setStack (s.stack.set s.sp.val s.pc h) ⟨s.sp.val + 1, by omega⟩)
  else .error .stackOverflow

/-- A pop into `pc`: SP is decremented, then STACK[SP] is read, and kept; StackUnderflow when SP = 0 (R16, R56). -/
def State.popPc (s : State) : Except Fault State :=
  if h : 0 < s.sp.val then
    .ok ((s.setStack s.stack ⟨s.sp.val - 1, by omega⟩).setPc (s.stack[s.sp.val - 1]'(by omega)))
  else .error .stackUnderflow

/-! ## Memory -/

/-- `MemRead(a, 1)` (R9). -/
def State.readMem (s : State) (a : Nat) : Byte := Memory.read s.cfg s.mem a

/-- `MemWrite(a, 1, b)` (R9): every address is writable (R28). -/
def State.writeMem (s : State) (a : Nat) (b : Byte) : State := s.setMem (Memory.write s.cfg s.mem a b)

/-- Single-byte writes in the order listed (R31). -/
def State.writeCells (s : State) (cells : List Host.Cell) : State := s.setMem (Memory.writeAll s.cfg s.mem cells)

/-- Single-byte reads in the order listed (R31). -/
def State.readCells (s : State) (as : List Nat) : List Byte := as.map s.readMem

/-- Bytes at consecutive addresses from `a` up. -/
def cellsFrom (a : Nat) : List Byte → List Host.Cell
  | [] => []
  | b :: rest => (a, b) :: cellsFrom (a + 1) rest

/-! ## Register blocks (FX55, FX65) -/

/-- The first `n` general registers, V0 first (R82). -/
def State.firstRegs (s : State) (n : Nat) : List Byte := s.v.toList.take n

/-- The register file after bytes are written to V[k], V[k+1], ... in order (R83). -/
def regsLoaded (v : Vector Byte 16) (k : Nat) : List Byte → Vector Byte 16
  | [] => v
  | b :: rest => if h : k < 16 then regsLoaded (v.set k b) (k + 1) rest else v

/-- Write bytes to registers from V0 up, in order (R83). -/
def State.loadRegs (s : State) (bytes : List Byte) : State := s.setRegs (regsLoaded s.v 0 bytes)

/-! ## The RNG port (R77, R108) -/

/-- The byte the RNG port returns next: the next known byte of the injected source, else a free value (log 3). -/
def State.nextRandom (s : State) : Byte :=
  match s.rngBytes with
  | b :: _ => b
  | []     => Config.freeByte s.rngDrawn

/-- `RandomByte()` has been called once: one byte is drawn from the port (R77, D27). -/
def State.drawRandom (s : State) : State := s.setRng s.rngBytes.tail (s.rngDrawn + 1)

/-! ## Fetch (R51) -/

/-- Fetch(a) of R51: two bytes, most significant first, at an instruction address of at most 0xFFE. DATA_ADDR_POLICY
does not apply. -/
def State.fetch (s : State) : Except Fault Word :=
  if s.pc.toNat + 1 > 0xFFF then .error (.addressOutOfRange s.pc.toNat)
  else .ok (Word.ofBytes (s.readMem s.pc.toNat) (s.readMem (s.pc.toNat + 1)))

/-- The decode stage of a step: UnknownOpcode(op) for a word that spells no instruction (R45, R96). -/
def decodeOrError (op : Word) : Except Fault Instr :=
  match decodeWord op with
  | some i => .ok i
  | none   => .error (.unknownOpcode op)

/-- Store the word `op` where the next step fetches: big-endian at PC, with the wait sub-state left, and with PC moved
to 0x200 where it cannot be fetched at (log 7). -/
def State.placeWord (s : State) (op : Word) : State :=
  let s := if s.pc.toNat + 1 > 0xFFF then s.setPc 0x200 else s
  let s := (s.writeMem s.pc.toNat op.hiByte).writeMem (s.pc.toNat + 1) op.loByte
  s.setWait false s.waitX s.waitSnap

end Sys2Proof.Machine
end

