-- ==== Sys2Proof/Machine/Operands.lean ====
section
/-! DEFINITION. Every operand form of the instruction set: the zero-extended address, the shift source and the jump
base under their toggles, and the data addresses I + k (30_encoding.md R43, 20_memory.md R33). A register operand is
`State.getV`, and an immediate byte stands for itself (R43: no sign extension, no scaling). -/

namespace Sys2Proof.Machine

/-- zext_16(NNN) (R43). -/
def zext16 (nnn : Addr12) : Word := nnn.setWidth 16

/-- The source of 8XY6 and 8XYE: V[X], or V[Y] under SHIFT_SOURCE = VY (R74, R76). -/
def State.shiftSource (s : State) (x y : Reg) : Byte :=
  match s.cfg.shiftSource with
  | .vx => s.getV x
  | .vy => s.getV y

/-- The X field of a BNNN word: NNN[11:8] (R63). -/
def jumpReg (nnn : Addr12) : Reg := (nnn.extractLsb' 8 4).toFin

/-- The base of BNNN: V[0], or V[X] under JUMP_BASE = VX (R63). -/
def State.jumpBase (s : State) (nnn : Addr12) : Byte :=
  match s.cfg.jumpBase with
  | .v0 => s.getV 0
  | .vx => s.getV (jumpReg nnn)

/-- EffAddr(a) of R33, on an unbounded address. -/
def effAddr (p : DataAddrPolicy) (a : Nat) : Except Fault Nat :=
  if a ≤ 0xFFF then .ok a
  else match p with
    | .reject => .error (.addressOutOfRange a)
    | .mask   => .ok (a % memSize)

/-- The effective addresses of `n` consecutive data addresses from `base` up, all checked before any access; the
error is that of the lowest one that fails (R33, R99). -/
def effAddrs (p : DataAddrPolicy) (base : Nat) : Nat → Except Fault (List Nat)
  | 0 => .ok []
  | n + 1 =>
    match effAddr p base with
    | .error f => .error f
    | .ok a =>
      match effAddrs p (base + 1) n with
      | .error f => .error f
      | .ok as   => .ok (a :: as)

/-- The effective addresses of I, I + 1, ..., I + n - 1 (R33: unbounded sums, D8). -/
def State.dataAddrs (s : State) (n : Nat) : Except Fault (List Nat) :=
  effAddrs s.cfg.dataAddrPolicy s.i.toNat n

end Sys2Proof.Machine
end

