-- ==== Sys2Proof/Machine/Flags.lean ====
section
/-! DEFINITION. The flag computations (10_state.md R12) and the write of a result with its flag, VF last
(41_alu.md R65). -/

namespace Sys2Proof.Machine

/-- A flag as the value VF takes: 1 or 0 (R12). -/
def flagByte (b : Bool) : Byte := if b then 1 else 0

/-- Carry of 8XY4: the unbounded sum exceeds 255 (R72). -/
def carryFlag (a b : Byte) : Bool := a.toNat + b.toNat > 255

/-- No borrow of a - b: a >= b (R73, R75). -/
def noBorrowFlag (a b : Byte) : Bool := a.toNat ≥ b.toNat

/-- The bit shifted out of 8XY6: src[0] (R74). -/
def shrFlag (src : Byte) : Bool := src.getLsbD 0

/-- The bit shifted out of 8XYE: src[7] (R76). -/
def shlFlag (src : Byte) : Bool := src.getLsbD 7

/-- V[F] <- flag (R12). -/
def State.setFlag (s : State) (f : Bool) : State := s.setV regVF (flagByte f)

/-- V[X] <- result, then V[F] <- flag, so VF ends holding the flag even when X = F (R12, R65). -/
def State.setResultFlag (s : State) (x : Reg) (result : Byte) (f : Bool) : State := (s.setV x result).setFlag f

end Sys2Proof.Machine
end

