-- ==== Sys2Proof/Machine/Display.lean ====
section
/-! DEFINITION. The display instructions and the XOR-blit unit (43_display.md R84..R86). -/

namespace Sys2Proof.Machine

/-- FB[x][y] (R19). -/
def pixel (fb : Framebuffer) (x : Col) (y : Line) : Bool := fb[y.val].getLsbD x.val

/-- FB[x][y] <- FB[x][y] ^ 1 (R86). -/
def flipPixel (fb : Framebuffer) (x : Col) (y : Line) : Framebuffer :=
  fb.set y.val (fb[y.val] ^^^ BitVec.twoPow 64 x.val)

/-- A column number modulo 64 (R86). -/
def wrapCol (n : Nat) : Col := Fin.ofNat 64 n

/-- A line number modulo 32 (R86). -/
def wrapLine (n : Nat) : Line := Fin.ofNat 32 n

/-- One set bit of a sprite lands on a pixel: the collision bit is raised if the pixel was 1, and the pixel is flipped
(R86). The pair is the framebuffer and the collision bit so far. -/
def blitPixel (x : Col) (y : Line) (d : Framebuffer × Bool) : Framebuffer × Bool :=
  (flipPixel d.1 x y, d.2 || pixel d.1 x y)

/-- The columns c, c + 1, ..., 7 of one sprite row `b` from screen column x0 (R84: bit 7 - c is column c). The first
argument counts the columns left, so the current one is 8 less it. -/
def blitCols (b : Byte) (x0 : Nat) (y : Line) : Nat → Framebuffer × Bool → Framebuffer × Bool
  | 0, d => d
  | left + 1, d =>
    let c := 7 - left
    blitCols b x0 y left (if b.getLsbD (7 - c) then blitPixel (wrapCol (x0 + c)) y d else d)

/-- The rows of a sprite from screen line y0 down, each on its 8 columns (R86). -/
def blitRows (x0 : Nat) : List Byte → Nat → Framebuffer × Bool → Framebuffer × Bool
  | [], _, d => d
  | b :: rest, y, d => blitRows x0 rest (y + 1) (blitCols b x0 (wrapLine y) 8 d)

/-- Draw a sprite at (x0, y0): the new framebuffer and the collision bit (R84, R86). -/
def blit (rows : List Byte) (x0 y0 : Nat) (fb : Framebuffer) : Framebuffer × Bool :=
  blitRows x0 rows y0 (fb, false)

/-- The framebuffer with every pixel 0 (R85). -/
def blankScreen : Framebuffer := Vector.replicate 32 0

/-- `CLS` (R85): redraw is set (D21). -/
def execCls (s : State) : Result := .next (s.setFb blankScreen).requestRedraw

/-- `DRW Vx, Vy, n` (R86): all addresses checked first, V[X] and V[Y] read before VF is written, VF = collision. -/
def execDrw (x y : Reg) (n : Nat) (s : State) : Result :=
  orRaise (s.dataAddrs n) fun as =>
    let d := blit (s.readCells as) (s.getV x).toNat (s.getV y).toNat s.fb
    .next ((s.setFb d.1).setFlag d.2).requestRedraw

end Sys2Proof.Machine
end

