-- ==== Sys2Proof/Machine/Flow.lean ====
section
/-! DEFINITION. Control transfer (40_flow.md R54..R63). In every meaning `pc` already holds the address of the
instruction plus 2 (R52). -/

namespace Sys2Proof.Machine

/-- `RET` (R56). -/
def execRet (s : State) : Result := orRaise s.popPc fun t => .next t

/-- `JP nnn` (R57). -/
def execJp (nnn : Addr12) (s : State) : Result := .next (s.setPc (zext16 nnn))

/-- `CALL nnn` (R58). -/
def execCall (nnn : Addr12) (s : State) : Result := orRaise s.pushPc fun t => .next (t.setPc (zext16 nnn))

/-- `SE Vx, nn` (R59). -/
def execSeImm (x : Reg) (nn : Byte) (s : State) : Result := .next (s.skipIf (s.getV x == nn))

/-- `SNE Vx, nn` (R60). -/
def execSneImm (x : Reg) (nn : Byte) (s : State) : Result := .next (s.skipIf (s.getV x != nn))

/-- `SE Vx, Vy` (R61). -/
def execSeReg (x y : Reg) (s : State) : Result := .next (s.skipIf (s.getV x == s.getV y))

/-- `SNE Vx, Vy` (R62). -/
def execSneReg (x y : Reg) (s : State) : Result := .next (s.skipIf (s.getV x != s.getV y))

/-- `JP V0, nnn` (R63): the sum never wraps, at most 0xFF + 0xFFF. -/
def execJpV0 (nnn : Addr12) (s : State) : Result :=
  .next (s.setPc (BitVec.ofNat 16 ((s.jumpBase nnn).toNat + nnn.toNat)))

end Sys2Proof.Machine
end

