-- ==== Sys2Proof/Machine/Index.lean ====
section
/-! DEFINITION. Address register and memory instructions (42_index_memory.md R78..R83). Every data address is checked
before the first write; I is never changed by a store or a load (D18). -/

namespace Sys2Proof.Machine

/-- `LD I, nnn` (R78). -/
def execLdI (nnn : Addr12) (s : State) : Result := .next (s.setI (zext16 nnn))

/-- `ADD I, Vx` (R79): modulo 2^16, no flag. -/
def execAddIVx (x : Reg) (s : State) : Result := .next (s.setI (s.i + (s.getV x).setWidth 16))

/-- The address of the glyph of a digit, FONT_BASE + 5 * digit, the digit not reduced (R80, D25). -/
def glyphAddr (c : Config) (digit : Byte) : Word := BitVec.ofNat 16 (c.fontBase.val + digit.toNat * 5)

/-- `LD F, Vx` (R80). -/
def execLdFVx (x : Reg) (s : State) : Result := .next (s.setI (glyphAddr s.cfg (s.getV x)))

/-- The three decimal digits of a byte: hundreds, tens, ones (R81). -/
def decimalDigits (b : Byte) : List Byte :=
  [BitVec.ofNat 8 (b.toNat / 100), BitVec.ofNat 8 (b.toNat / 10 % 10), BitVec.ofNat 8 (b.toNat % 10)]

/-- `LD B, Vx` (R81). -/
def execLdBVx (x : Reg) (s : State) : Result :=
  orRaise (s.dataAddrs 3) fun as => .next (s.writeCells (as.zip (decimalDigits (s.getV x))))

/-- `LD [I], Vx` (R82). -/
def execLdMemVx (x : Reg) (s : State) : Result :=
  orRaise (s.dataAddrs (x.val + 1)) fun as => .next (s.writeCells (as.zip (s.firstRegs (x.val + 1))))

/-- `LD Vx, [I]` (R83). -/
def execLdVxMem (x : Reg) (s : State) : Result :=
  orRaise (s.dataAddrs (x.val + 1)) fun as => .next (s.loadRegs (s.readCells as))

end Sys2Proof.Machine
end

