-- ==== Sys2Proof/Machine/TimersKeys.lean ====
section
/-! DEFINITION. Timer and keypad instructions and the key wait (44_timers_keys.md R87..R93). -/

namespace Sys2Proof.Machine

/-- `LD Vx, DT` (R87). -/
def execLdVxDt (x : Reg) (s : State) : Result := .next (s.setV x s.dt)

/-- `LD DT, Vx` (R88). -/
def execLdDtVx (x : Reg) (s : State) : Result := .next (s.setDt (s.getV x))

/-- `LD ST, Vx` (R89). -/
def execLdStVx (x : Reg) (s : State) : Result := .next (s.setSt (s.getV x))

/-- The byte names a key and that key is pressed; a value above 15 names no key (R90, D23). -/
def State.keyPressed (s : State) (k : Byte) : Bool := decide (k.toNat ≤ 15) && s.keys.getLsbD k.toNat

/-- `SKP Vx` (R90). -/
def execSkp (x : Reg) (s : State) : Result := .next (s.skipIf (s.keyPressed (s.getV x)))

/-- `SKNP Vx` (R91). -/
def execSknp (x : Reg) (s : State) : Result := .next (s.skipIf (!s.keyPressed (s.getV x)))

/-- `LD Vx, K` (R92): only enters the suspended state; a key already held does not end the wait (D24). -/
def execLdVxK (x : Reg) (s : State) : Result := .next (s.setWait true x s.keys).reportHalted

/-- The keys pressed now and released when the wait last looked (R93). -/
def State.newlyPressed (s : State) : BitVec 16 := s.keys &&& ~~~s.waitSnap

/-- The least key of a set, if any (R8, R93). -/
def leastKey (ks : BitVec 16) : Option Key := (List.finRange 16).find? fun k => ks.getLsbD k.val

/-- WaitStep() of R93: hold and remember releases, or store the lowest newly pressed key and leave the wait. PC is not
changed. -/
def State.waitStep (s : State) : State :=
  match leastKey s.newlyPressed with
  | none   => (s.setWait true s.waitX s.keys).reportHalted
  | some k => (s.setV s.waitX (BitVec.ofNat 8 k.val)).setWait false s.waitX s.waitSnap

end Sys2Proof.Machine
end

