-- ==== Sys2Proof/Machine/Cycle.lean ====
section
/-! DEFINITION. The step transaction (30_encoding.md R50): the outputs cleared, the suspended check, fetch, the
advance of PC, decode, execute. -/

namespace Sys2Proof.Machine

/-- The state a step starts from: the outputs cleared (R50). -/
def State.clearEffect (s : State) : State := s.setEffect StepEffect.none

/-- Fetch, advance, decode, execute (R50..R52). -/
def State.runFetched (s : State) : Result :=
  orRaise s.fetch fun op => orRaise (decodeOrError op) fun ins => exec ins s.advancePc

/-- `step()` of R50. -/
def State.stepCycle (s : State) : Result :=
  if s.waitActive then .next s.clearEffect.waitStep else s.clearEffect.runFetched

end Sys2Proof.Machine
end

