-- ==== Sys2Proof/Machine/Step.lean ====
section
/-! DEFINITION. One step of the machine: the `step` transaction of 30_encoding.md R50. -/

namespace Sys2Proof.Machine

/-- The `step` transaction (R50). -/
def step : State → Host.Outcome State Fault Refusal := State.stepCycle

/-- The state with the word `w` of an opcode-table row stored where `step` fetches next (log 7). -/
def State.withFetchWord (s : State) (nbits w : Nat) : State := s.placeWord (tableWord nbits w)

end Sys2Proof.Machine
end

