-- ==== Sys2Proof/Machine/Transactions.lean ====
section
/-! DEFINITION. The host's transactions (60_exceptions.md R105..R109, 70_reset_and_hazards.md R116): `load`,
`tick_timers`, `set_key`, the read port, and the driving of one block by a sequence of them. -/

namespace Sys2Proof.Machine

/-- One timer's countdown: "never underflow below zero" (R105). -/
def countDown (b : Byte) : Byte := if b = 0 then 0 else b - 1

/-- `tick_timers()` (R105): whether or not the block is suspended. -/
def State.tickTimers (s : State) : State := (s.setDt (countDown s.dt)).setSt (countDown s.st)

/-- `set_key(k, p)` (R106); a symbol outside 0..15 is refused (D35). -/
def State.setKey (s : State) (k : Nat) (p : Bool) : Result :=
  if k ≤ 15 then
    .next (s.setKeys (if p then s.keys ||| BitVec.twoPow 16 k else s.keys &&& ~~~(BitVec.twoPow 16 k)))
  else .refused (.keySymbolOutOfRange k)

/-- LOAD_BASE (R5). -/
def loadBase : Nat := 0x200

/-- MAX_IMAGE (R5). -/
def maxImage : Nat := memSize - loadBase

/-- `load(image)` (R116). -/
def State.load (s : State) (image : List Byte) : Result :=
  if image.length > maxImage then raise (.imageTooLarge image.length)
  else .next (s.writeCells (cellsFrom loadBase image))

/-- The items of state the host may read (R107). -/
inductive Field where
  | v | i | pc | stack | sp | dt | st | framebuffer | keys | memory | waitActive | waitX | waitSnap
deriving DecidableEq, Repr

/-- The bit of a flag as a number. -/
def bitNat (b : Bool) : Nat := if b then 1 else 0

/-- The 2048 pixel values, pixel (x, y) at index x + 64 * y (R107, D39). -/
def State.readFramebuffer (s : State) : List Nat :=
  (List.range 2048).map fun n => bitNat (pixel s.fb (wrapCol n) (wrapLine (n / 64)))

/-- The read port (R107): every item of state as the list of its values, by rising index; reading changes nothing. -/
def State.readField (s : State) : Field → List Nat
  | .v           => s.v.toList.map BitVec.toNat
  | .i           => [s.i.toNat]
  | .pc          => [s.pc.toNat]
  | .stack       => s.stack.toList.map BitVec.toNat
  | .sp          => [s.sp.val]
  | .dt          => [s.dt.toNat]
  | .st          => [s.st.toNat]
  | .framebuffer => s.readFramebuffer
  | .keys        => (List.range 16).map fun k => bitNat (s.keys.getLsbD k)
  | .memory      => (List.range memSize).map fun a => (s.readMem a).toNat
  | .waitActive  => [bitNat s.waitActive]
  | .waitX       => [s.waitX.val]
  | .waitSnap    => [s.waitSnap.toNat]

/-- The transactions the host drives a constructed block with (R109). -/
inductive Transaction where
  | step
  | tickTimers
  | setKey (k : Nat) (pressed : Bool)
  | load (image : List Byte)
  | read (field : Field)
deriving DecidableEq, Repr

/-- What the host gets from a transaction (R109): a step's outputs, an error, a refusal mark, a value read, or
nothing. -/
inductive Response where
  | effect (e : StepEffect)
  | error (f : Fault)
  | refused (r : Refusal)
  | value (ns : List Nat)
  | done
deriving DecidableEq, Repr

/-- The response to a transaction that ended with `r`; a step returns its outputs (R53), the others nothing. -/
def respond (isStep : Bool) : Result → Response
  | .next t    => if isStep then .effect t.effect else .done
  | .fault f   => .error f
  | .refused r => .refused r

/-- One transaction: the state it leaves and what the host gets. An error leaves the state unchanged (R98). -/
def transact (s : State) : Transaction → State × Response
  | .step         => (s.settle (step s), respond true (step s))
  | .tickTimers   => (s.tickTimers, .done)
  | .setKey k p   => (s.settle (s.setKey k p), respond false (s.setKey k p))
  | .load image   => (s.settle (s.load image), respond false (s.load image))
  | .read f       => (s, .value (s.readField f))

/-- The state a sequence of transactions leaves, one after another, none at once with another (R4, R109). -/
def drive (s : State) : List Transaction → State
  | [] => s
  | x :: rest => drive (transact s x).1 rest

end Sys2Proof.Machine
end

