-- ==== Sys2Proof/Safety.lean ====
section
/-! DEFINITION. What a good state and a good run are: the invariant of the block, reachability under the host's
transactions, and how a run ends (60_exceptions.md R110). -/

namespace Sys2Proof.Machine

/-- The largest PC a step leaves in a reachable state: 0xFF + 0xFFF by BNNN (R13). -/
def maxPc : Nat := 0x10FE

/-- The largest return address a call saves: that of a CALL at 0xFFE (R58). -/
def maxReturn : Nat := 0x1000

/-- The invariant of a block: memory is in its canonical form, PC is at most 0x10FE (R13), and every stack entry is
at most 0x1000 (R58). SP <= 16, one-bit pixels and the widths are carried by the types of State. -/
structure State.Inv (s : State) : Prop where
  memory : Memory.wf s.cfg s.mem = true
  pc     : s.pc.toNat ≤ maxPc
  stack  : ∀ j (h : j < 16), s.stack[j].toNat ≤ maxReturn

/-- The states the host can bring a block to: from construction with any configuration and any RNG source, by any
sequence of transactions (R109, R120). -/
def Reachable (s : State) : Prop := ∃ cfg rng xs, s = drive (State.construct cfg rng) xs

/-- A step is about to run an instruction: the block is not suspended and PC can be fetched at (R50, R51). -/
abbrev State.CanFetch (s : State) : Prop := s.waitActive = false ∧ s.pc.toNat ≤ 0xFFE

/-- The word a fetch reads at PC (R51). -/
def State.wordAtPc (s : State) : Word := Word.ofBytes (s.readMem s.pc.toNat) (s.readMem (s.pc.toNat + 1))

/-- A run has ended normally: PC = a, and the word at a is `1aaa`, a jump to itself (R110). Whether the block is
suspended plays no part. Both bytes of the word lie in memory, so a is at most 0xFFE. -/
abbrev State.EndedNormally (s : State) : Prop :=
  s.pc.toNat ≤ 0xFFE ∧ decodeWord s.wordAtPc = some (.jp (s.pc.setWidth 12))

/-- The error a transaction returns as a step; only `step` is one (R110). -/
def stepError (s : State) : Transaction → Option Fault
  | .step =>
    match step s with
    | .fault f   => some f
    | .next _    => none
    | .refused _ => none
  | .tickTimers | .setKey _ _ | .load _ | .read _ => none

/-- The first step of a run that returns an error: the state it was requested in, which it leaves as it was (R98), and
the error. -/
def firstStepError (s : State) : List Transaction → Option (State × Fault)
  | [] => none
  | x :: rest =>
    match stepError s x with
    | some f => some (s, f)
    | none   => firstStepError (transact s x).1 rest

/-- The run from `s` under the transactions `xs` has ended in error: some step of it has returned an error (R110). It
ended at the first of them, `firstStepError s xs`. -/
def EndedInError (s : State) (xs : List Transaction) : Prop := ∃ u f, firstStepError s xs = some (u, f)

/-- The number of data addresses I, I + 1, ... an instruction accesses (R31). -/
def dataLength : Instr → Nat
  | .drw _ _ n => n
  | .ldBVx _   => 3
  | .ldMemVx x => x.val + 1
  | .ldVxMem x => x.val + 1
  | .cls | .ret | .jp _ | .call _ | .seImm _ _ | .sneImm _ _ | .seReg _ _ | .ldImm _ _ | .addImm _ _
  | .ldReg _ _ | .orReg _ _ | .andReg _ _ | .xorReg _ _ | .addReg _ _ | .subReg _ _ | .shr _ _ | .subn _ _
  | .shl _ _ | .sneReg _ _ | .ldI _ | .jpV0 _ | .rnd _ _ | .skp _ | .sknp _ | .ldVxDt _ | .ldVxK _
  | .ldDtVx _ | .ldStVx _ | .addIVx _ | .ldFVx _ => 0

/-- Every one of `n` consecutive data addresses from I is effective: DATA_ADDR_POLICY = mask, or none of them is above
0xFFF (R33). -/
abbrev State.DataInside (s : State) (n : Nat) : Prop :=
  s.cfg.dataAddrPolicy = .mask ∨ s.i.toNat + n ≤ 0x1000

/-- The frame of an instruction that writes general registers: nothing but the register file differs, and of it only
the registers named. -/
def OnlyRegistersChange (rs : List Reg) (s t : State) : Prop :=
  t = { s with v := t.v } ∧ ∀ r, r ∉ rs → t.getV r = s.getV r

/-- The sprite of a DXYN executed in `s` has a 1 bit on the pixel (px, py): bit 7 - c of row r, with the row read at
the effective address of I + r, column (V[X] + c) mod 64 and line (V[Y] + r) mod 32 (R84, R86). -/
def State.SpriteCovers (s : State) (x y : Reg) (n : Nat) (px : Col) (py : Line) : Prop :=
  ∃ r c a, r < n ∧ c < 8 ∧ effAddr s.cfg.dataAddrPolicy (s.i.toNat + r) = .ok a ∧
    (s.readMem a).getLsbD (7 - c) = true ∧
    px.val = ((s.getV x).toNat + c) % 64 ∧ py.val = ((s.getV y).toNat + r) % 32

end Sys2Proof.Machine
end

