-- ==== Sys2Proof/Certificates/Slice0/Obligations.lean ====
section
/-! DEFINITION. The statements for the provers, from the numbered rules of spec/. A statement that gives the meaning
of an instruction also gives its encoding and its frame; `exec i s` has `pc` already advanced (R52). -/

open Sys2Proof Sys2Proof.Machine

/-! ## Construction, the invariant, memory -/

/-- R114, R108, R6, R115 with the choices D3 (PC = 0x200) and D4, D5 (the font) the spec makes. That the RNG source is
held as rngBytes, counted by rngDrawn, and the outputs as effect, is the model's choice (logs 2, 3). -/
def Obligations.ConstructionGivesEveryResetValue : Prop :=
  (∀ (c : Config) (rng : List Byte) (s : State), s = State.construct c rng →
    s.cfg = c ∧ (∀ r, s.getV r = 0) ∧ s.i = 0 ∧ s.pc = 0x200 ∧ s.sp = 0 ∧
    (∀ j (h : j < 16), s.stack[j] = 0) ∧ s.dt = 0 ∧ s.st = 0 ∧ (∀ x y, pixel s.fb x y = false) ∧ s.keys = 0 ∧
    s.waitActive = false ∧ s.waitX = 0 ∧ s.waitSnap = 0 ∧ s.rngBytes = rng ∧ s.rngDrawn = 0 ∧
    s.effect = ⟨false, false⟩ ∧
    (∀ j (h : j < 80), s.readMem (c.fontBase.val + j) = c.fontTable[j]) ∧
    (∀ a, a < c.fontBase.val ∨ c.fontBase.val + 80 ≤ a → s.readMem a = 0)) ∧
  State.reset = State.construct Config.default [] ∧
  Config.default.shiftSource = .vx ∧ Config.default.jumpBase = .v0 ∧ Config.default.fontBase.val = 0x050 ∧
  Config.default.dataAddrPolicy = .reject ∧
  Config.default.fontTable.toList =
    [0xF0, 0x90, 0x90, 0x90, 0xF0] ++ [0x20, 0x60, 0x20, 0x20, 0x70] ++
    [0xF0, 0x10, 0xF0, 0x80, 0xF0] ++ [0xF0, 0x10, 0xF0, 0x10, 0xF0] ++
    [0x90, 0x90, 0xF0, 0x10, 0x10] ++ [0xF0, 0x80, 0xF0, 0x10, 0xF0] ++
    [0xF0, 0x80, 0xF0, 0x90, 0xF0] ++ [0xF0, 0x10, 0x20, 0x40, 0x40] ++
    [0xF0, 0x90, 0xF0, 0x90, 0xF0] ++ [0xF0, 0x90, 0xF0, 0x10, 0xF0] ++
    [0xF0, 0x90, 0xF0, 0x90, 0x90] ++ [0xE0, 0x90, 0xE0, 0x90, 0xE0] ++
    [0xF0, 0x80, 0x80, 0x80, 0xF0] ++ [0xE0, 0x90, 0x90, 0x90, 0xE0] ++
    [0xF0, 0x80, 0xF0, 0x80, 0xF0] ++ [0xF0, 0x80, 0xF0, 0x80, 0x80]

/-- The invariant (canonical memory, PC <= 0x10FE, stack entries <= 0x1000) holds after construction. -/
def Obligations.ConstructedStatesMeetInvariant : Prop :=
  State.reset.Inv ∧ ∀ (c : Config) (rng : List Byte), (State.construct c rng).Inv

/-- R13, R21, R58: every step that completes keeps the invariant, from every state that meets it. -/
def Obligations.EveryStepKeepsInvariant : Prop :=
  ∀ s t : State, s.Inv → step s = .next t → t.Inv

/-- R109: every host transaction keeps the invariant, whether it completes, fails or is refused. -/
def Obligations.EveryTransactionKeepsInvariant : Prop :=
  ∀ (s : State) (x : Transaction), s.Inv → (transact s x).1.Inv

/-- R13, R109, R120: in every reachable state, whatever the configuration, the RNG source and the interleaving of the
host's transactions, PC is at most 0x10FE, and neither the advance of a step nor a skip after it wraps. -/
def Obligations.ReachablePcNeverWraps : Prop :=
  ∀ s : State, Reachable s → s.Inv ∧ s.pc.toNat ≤ 0x10FE ∧
    (s.pc + 2).toNat = s.pc.toNat + 2 ∧ (s.pc + 2 + 2).toNat = s.pc.toNat + 4

/-- The model's memory (log 6): two canonical memories that read alike at every address are the same data. -/
def Obligations.CanonicalMemoryIsUnique : Prop :=
  ∀ (c : Config) (m m' : Memory), Memory.wf c m = true → Memory.wf c m' = true →
    (∀ a, a < 4096 → Memory.read c m a = Memory.read c m' a) → m = m'

/-- R33 with the choices D7 and D8. -/
def Obligations.EffectiveAddressRejectsOrMasks : Prop :=
  ∀ (p : DataAddrPolicy) (a : Nat),
    (a ≤ 0xFFF → effAddr p a = .ok a) ∧
    (0xFFF < a → p = .reject → effAddr p a = .error (.addressOutOfRange a)) ∧
    (0xFFF < a → p = .mask → effAddr p a = .ok (a % 4096))

/-! ## Encoding -/

/-- R44, R45, R29: decoding the bytes of any well-formed instruction gives it back, and the rest of the bytes. -/
def Obligations.DecodeOfEncodeIsIdentity : Prop :=
  ∀ (i : Instr) (rest : List Byte), i.wf = true → decode (encodeBytes i ++ rest) = .ok (i, rest)

/-- R45, R46: a word that decodes is the encoding of the well-formed instruction it decodes to. -/
def Obligations.EncodeOfDecodeIsIdentity : Prop :=
  ∀ (op : Word) (i : Instr), decodeWord op = some i → i.wf = true ∧ encode i = op

/-- R45, R46 and opcode_table.json: a word decodes exactly when it matches a row of the table, it matches the row of
the instruction it decodes to, and no word matches two rows. -/
def Obligations.DecoderAgreesWithOpcodeTable : Prop :=
  ∀ op : Word,
    ((∃ i, decodeWord op = some i) ↔ ∃ r ∈ opcodeTable, op &&& r.mask = r.pattern) ∧
    (∀ i, decodeWord op = some i → op &&& i.row.mask = i.row.pattern) ∧
    (∀ r ∈ opcodeTable, ∀ r' ∈ opcodeTable, op &&& r.mask = r.pattern → op &&& r'.mask = r'.pattern → r = r')

/-- Words of the spec's examples, one for each family and sub-dispatch. -/
def Obligations.SampleWordsDecode : Prop :=
  decodeWord 0x00E0 = some .cls ∧ decodeWord 0x1234 = some (.jp 0x234) ∧ decodeWord 0x3312 = some (.seImm 3 0x12) ∧
  decodeWord 0x8124 = some (.addReg 1 2) ∧ decodeWord 0xD015 = some (.drw 0 1 5) ∧
  decodeWord 0xE1A1 = some (.sknp 1) ∧ decodeWord 0xFA33 = some (.ldBVx 0xA) ∧
  decodeWord 0x5121 = none ∧ decodeWord 0x0123 = none ∧ decodeWord 0xF066 = none

/-! ## The step -/

/-- R50, R52: where the block is not suspended and PC can be fetched at, a step is the instruction decoded at PC,
executed with the outputs cleared and PC advanced by 2. -/
def Obligations.StepRunsDecodedInstruction : Prop :=
  ∀ (s : State) (i : Instr), s.CanFetch → decodeWord s.wordAtPc = some i →
    step s = exec i { s with effect := StepEffect.none, pc := s.pc + 2 }

/-- R51: the range check and the two bytes, most significant first; DATA_ADDR_POLICY plays no part. -/
def Obligations.FetchChecksRangeAndReadsBigEndian : Prop :=
  ∀ s : State,
    (s.pc.toNat + 1 > 0xFFF →
      s.fetch = .error (.addressOutOfRange s.pc.toNat) ∧
      (s.waitActive = false → step s = .fault (.addressOutOfRange s.pc.toNat))) ∧
    (s.pc.toNat + 1 ≤ 0xFFF →
      ∃ op, s.fetch = .ok op ∧
        op.toNat = (s.readMem s.pc.toNat).toNat * 256 + (s.readMem (s.pc.toNat + 1)).toNat)

/-- R96: a word that matches no row of the opcode table raises UnknownOpcode with the raw word. -/
def Obligations.UnknownWordRaisesUnknownOpcode : Prop :=
  ∀ s : State, s.CanFetch → (∀ r ∈ opcodeTable, s.wordAtPc &&& r.mask ≠ r.pattern) →
    step s = .fault (.unknownOpcode s.wordAtPc)

/-- R94, R95, R97, R99: when an instruction raises, and what: RET on an empty stack, CALL on a full one, and under
DATA_ADDR_POLICY = reject an access that leaves memory, with its first address above 0xFFF. Nothing else. -/
def Obligations.InstructionsRaiseExactlyTheNamedErrors : Prop :=
  ∀ (i : Instr) (s : State) (f : Fault),
    exec i s = .fault f ↔
      (i = .ret ∧ s.sp = 0 ∧ f = .stackUnderflow) ∨
      ((∃ nnn, i = .call nnn) ∧ s.sp = 16 ∧ f = .stackOverflow) ∨
      (s.cfg.dataAddrPolicy = .reject ∧ 0 < dataLength i ∧ 0x1000 < s.i.toNat + dataLength i ∧
        f = .addressOutOfRange (max s.i.toNat 0x1000))

/-- R103: every instruction may be executed at any time; no step is refused. -/
def Obligations.NoStepIsRefused : Prop :=
  ∀ (s : State) (r : Refusal), step s ≠ .refused r

/-- R98 with the choice D9: a transaction that returns an error leaves every item of state as it was. -/
def Obligations.ErrorLeavesStateUnchanged : Prop :=
  ∀ (s : State) (x : Transaction) (f : Fault), (transact s x).2 = .error f → (transact s x).1 = s

/-- R53: the outputs are not state: what a step does does not depend on the last step's outputs. -/
def Obligations.StepIgnoresEarlierOutputs : Prop :=
  ∀ (s : State) (e : StepEffect), step { s with effect := e } = step s

/-- R53, R92, R93: a completed step reports halted exactly when it leaves the block suspended. -/
def Obligations.HaltedReportedExactlyWhenSuspended : Prop :=
  ∀ s t : State, step s = .next t → t.effect.halted = t.waitActive

/-- R53, R85, R86 with the choice D21: redraw is reported exactly by CLS and DRW, and whenever a pixel changed. -/
def Obligations.RedrawReportedExactlyByDisplayInstructions : Prop :=
  ∀ s t : State, step s = .next t →
    (t.effect.redraw = true ↔ s.CanFetch ∧
      (decodeWord s.wordAtPc = some .cls ∨ ∃ x y n, decodeWord s.wordAtPc = some (.drw x y n))) ∧
    (t.fb ≠ s.fb → t.effect.redraw = true)

/-- R93 with the choice D24: a waiting step that sees no newly pressed key stays suspended and remembers releases. -/
def Obligations.WaitingStepHoldsWithoutNewKey : Prop :=
  ∀ s : State, s.waitActive = true →
    (∀ k : Key, s.keys.getLsbD k.val = true → s.waitSnap.getLsbD k.val = true) →
    step s = .next { s with waitSnap := s.keys, effect := ⟨false, true⟩ }

/-- R93 with the choice D24: a waiting step stores the lowest newly pressed key and leaves the wait, PC unchanged. -/
def Obligations.WaitingStepStoresLowestNewKey : Prop :=
  ∀ (s : State) (k : Key), s.waitActive = true →
    s.keys.getLsbD k.val = true → s.waitSnap.getLsbD k.val = false →
    (∀ j : Key, j.val < k.val → s.keys.getLsbD j.val = true → s.waitSnap.getLsbD j.val = true) →
    ∃ t, step s = .next t ∧ (t.getV s.waitX).toNat = k.val ∧ (∀ r, r ≠ s.waitX → t.getV r = s.getV r) ∧
      t = { s with v := t.v, waitActive := false, effect := ⟨false, false⟩ }

/-! ## Control transfer (40_flow.md) -/

/-- R57. -/
def Obligations.JpJumps : Prop :=
  ∀ (nnn : Addr12) (s : State),
    decodeWord (0x1#4 ++ nnn) = some (.jp nnn) ∧
    ∃ t, exec (.jp nnn) s = .next t ∧ t.pc.toNat = nnn.toNat ∧ t = { s with pc := t.pc }

/-- R58: the push and the jump, and StackOverflow when SP = 16, reported by the step with the state unmodified. -/
def Obligations.CallPushesReturnAddressAndJumps : Prop :=
  ∀ (nnn : Addr12) (s : State),
    decodeWord (0x2#4 ++ nnn) = some (.call nnn) ∧
    (s.sp.val = 16 → exec (.call nnn) s = .fault .stackOverflow) ∧
    (s.CanFetch → decodeWord s.wordAtPc = some (.call nnn) → s.sp.val = 16 →
      transact s .step = (s, .error .stackOverflow)) ∧
    (s.sp.val ≠ 16 → ∃ t, exec (.call nnn) s = .next t ∧ t.pc.toNat = nnn.toNat ∧ t.sp.val = s.sp.val + 1 ∧
      (∀ j (h : j < 16), t.stack[j] = if j = s.sp.val then s.pc else s.stack[j]) ∧
      t = { s with pc := t.pc, stack := t.stack, sp := t.sp })

/-- R56: the pop, with the popped entry kept, and StackUnderflow when SP = 0, with nothing written and PC at the RET. -/
def Obligations.RetPopsReturnAddress : Prop :=
  ∀ s : State,
    decodeWord 0x00EE = some .ret ∧
    (s.sp.val = 0 → exec .ret s = .fault .stackUnderflow) ∧
    (s.CanFetch → decodeWord s.wordAtPc = some .ret → s.sp.val = 0 →
      transact s .step = (s, .error .stackUnderflow)) ∧
    (s.sp.val ≠ 0 → ∃ t, exec .ret s = .next t ∧ t.sp.val + 1 = s.sp.val ∧
      (∀ j (h : j < 16), j + 1 = s.sp.val → t.pc = s.stack[j]) ∧ t = { s with pc := t.pc, sp := t.sp })

/-- R58, R56: a RET after a CALL, the subroutine having left the stack controller as it found it, goes to the
instruction after the CALL with the stack pointer of before it, and no other stack entry is lost. -/
def Obligations.RetAfterCallReturnsToCaller : Prop :=
  ∀ (nnn : Addr12) (s : State), s.sp.val < 16 →
    ∃ t, exec (.call nnn) s = .next t ∧
      ∀ t' : State, t'.stack = t.stack → t'.sp = t.sp →
        ∃ u, exec .ret t' = .next u ∧ u.pc = s.pc ∧ u.sp = s.sp ∧
          (∀ j (h : j < 16), j ≠ s.sp.val → u.stack[j] = s.stack[j]) ∧ u = { t' with pc := u.pc, sp := u.sp }

/-- R59, R60: SE and SNE with an immediate. -/
def Obligations.SkipsOnImmediate : Prop :=
  ∀ (x : Reg) (nn : Byte) (s : State),
    decodeWord (0x3#4 ++ x.bits ++ nn) = some (.seImm x nn) ∧
    decodeWord (0x4#4 ++ x.bits ++ nn) = some (.sneImm x nn) ∧
    exec (.seImm x nn) s = .next { s with pc := if s.getV x = nn then s.pc + 2 else s.pc } ∧
    exec (.sneImm x nn) s = .next { s with pc := if s.getV x ≠ nn then s.pc + 2 else s.pc }

/-- R61, R62: SE and SNE with two registers; with another low nibble the word spells no instruction. -/
def Obligations.SkipsOnRegisters : Prop :=
  ∀ (x y : Reg) (s : State),
    decodeWord (0x5#4 ++ x.bits ++ y.bits ++ 0x0#4) = some (.seReg x y) ∧
    decodeWord (0x9#4 ++ x.bits ++ y.bits ++ 0x0#4) = some (.sneReg x y) ∧
    (∀ n : BitVec 4, n ≠ 0 → decodeWord (0x5#4 ++ x.bits ++ y.bits ++ n) = none ∧
      decodeWord (0x9#4 ++ x.bits ++ y.bits ++ n) = none) ∧
    exec (.seReg x y) s = .next { s with pc := if s.getV x = s.getV y then s.pc + 2 else s.pc } ∧
    exec (.sneReg x y) s = .next { s with pc := if s.getV x ≠ s.getV y then s.pc + 2 else s.pc }

/-- R63, both settings of JUMP_BASE (the toggle's default is the spec's choice D15): the sum never wraps. -/
def Obligations.JpV0AddsBaseRegister : Prop :=
  ∀ (nnn : Addr12) (s : State),
    decodeWord (0xB#4 ++ nnn) = some (.jpV0 nnn) ∧
    ∃ t, exec (.jpV0 nnn) s = .next t ∧
      (s.cfg.jumpBase = .v0 → t.pc.toNat = (s.getV 0).toNat + nnn.toNat) ∧
      (s.cfg.jumpBase = .vx → ∀ x : Reg, x.val = nnn.toNat / 256 → t.pc.toNat = (s.getV x).toNat + nnn.toNat) ∧
      t = { s with pc := t.pc }

/-- R57, R110 (the convention D37): where a run has ended normally, at a jump to itself, a step of a block that is not
suspended leaves the state as it is, and a step of any block completes and leaves the run ended at the same PC. -/
def Obligations.JumpToSelfIdles : Prop :=
  ∀ s : State, s.EndedNormally →
    (s.waitActive = false → step s = .next { s with effect := StepEffect.none }) ∧
    ∃ t, step s = .next t ∧ t.pc = s.pc ∧ t.EndedNormally

/-- R110 (the convention D37), R98: a run ends in error at the first step that returns an error, whatever the host does
before and after it; that step leaves the state it was requested in. -/
def Obligations.RunEndsAtFirstFailingStep : Prop :=
  ∀ (s u : State) (f : Fault) (xs : List Transaction),
    (firstStepError s xs = some (u, f) ↔
      ∃ pre post, xs = pre ++ .step :: post ∧ u = drive s pre ∧ transact u .step = (u, .error f) ∧
        ∀ pre' post' g, pre = pre' ++ .step :: post' → step (drive s pre') ≠ .fault g) ∧
    (EndedInError s xs ↔ ∃ pre post g, xs = pre ++ .step :: post ∧ step (drive s pre) = .fault g)

/-! ## Register and ALU instructions (41_alu.md) -/

/-- R66, R67, R68. -/
def Obligations.LoadsAndAddImmediateWriteVx : Prop :=
  ∀ (x y : Reg) (nn : Byte) (s : State),
    decodeWord (0x6#4 ++ x.bits ++ nn) = some (.ldImm x nn) ∧
    decodeWord (0x7#4 ++ x.bits ++ nn) = some (.addImm x nn) ∧
    decodeWord (0x8#4 ++ x.bits ++ y.bits ++ 0x0#4) = some (.ldReg x y) ∧
    (∃ t, exec (.ldImm x nn) s = .next t ∧ t.getV x = nn ∧ OnlyRegistersChange [x] s t) ∧
    (∃ t, exec (.addImm x nn) s = .next t ∧ (t.getV x).toNat = ((s.getV x).toNat + nn.toNat) % 256 ∧
      OnlyRegistersChange [x] s t) ∧
    (∃ t, exec (.ldReg x y) s = .next t ∧ t.getV x = s.getV y ∧ OnlyRegistersChange [x] s t)

/-- R69, R70, R71 with the choice D17: VF is written only as the destination. -/
def Obligations.LogicInstructionsCombineBits : Prop :=
  ∀ (x y : Reg) (s : State),
    decodeWord (0x8#4 ++ x.bits ++ y.bits ++ 0x1#4) = some (.orReg x y) ∧
    decodeWord (0x8#4 ++ x.bits ++ y.bits ++ 0x2#4) = some (.andReg x y) ∧
    decodeWord (0x8#4 ++ x.bits ++ y.bits ++ 0x3#4) = some (.xorReg x y) ∧
    (∃ t, exec (.orReg x y) s = .next t ∧ OnlyRegistersChange [x] s t ∧
      ∀ j, (t.getV x).getLsbD j = ((s.getV x).getLsbD j || (s.getV y).getLsbD j)) ∧
    (∃ t, exec (.andReg x y) s = .next t ∧ OnlyRegistersChange [x] s t ∧
      ∀ j, (t.getV x).getLsbD j = ((s.getV x).getLsbD j && (s.getV y).getLsbD j)) ∧
    (∃ t, exec (.xorReg x y) s = .next t ∧ OnlyRegistersChange [x] s t ∧
      ∀ j, (t.getV x).getLsbD j = ((s.getV x).getLsbD j ^^ (s.getV y).getLsbD j))

/-- R72: the sum modulo 256 and the carry; with X = F, VF ends holding the carry. -/
def Obligations.AddRegSumsWithCarry : Prop :=
  ∀ (x y : Reg) (s : State),
    decodeWord (0x8#4 ++ x.bits ++ y.bits ++ 0x4#4) = some (.addReg x y) ∧
    ∃ t, exec (.addReg x y) s = .next t ∧
      (x ≠ 15 → (t.getV x).toNat = ((s.getV x).toNat + (s.getV y).toNat) % 256) ∧
      t.getV 15 = (if (s.getV x).toNat + (s.getV y).toNat > 255 then 1 else 0) ∧ OnlyRegistersChange [x, 15] s t

/-- R73, R75: the differences modulo 256 and no borrow; with X = F, VF ends holding the flag. -/
def Obligations.SubtractionsWithNoBorrow : Prop :=
  ∀ (x y : Reg) (s : State),
    decodeWord (0x8#4 ++ x.bits ++ y.bits ++ 0x5#4) = some (.subReg x y) ∧
    decodeWord (0x8#4 ++ x.bits ++ y.bits ++ 0x7#4) = some (.subn x y) ∧
    (∃ t, exec (.subReg x y) s = .next t ∧
      (x ≠ 15 → (t.getV x).toNat = ((s.getV x).toNat + 256 - (s.getV y).toNat) % 256) ∧
      t.getV 15 = (if (s.getV x).toNat ≥ (s.getV y).toNat then 1 else 0) ∧ OnlyRegistersChange [x, 15] s t) ∧
    (∃ t, exec (.subn x y) s = .next t ∧
      (x ≠ 15 → (t.getV x).toNat = ((s.getV y).toNat + 256 - (s.getV x).toNat) % 256) ∧
      t.getV 15 = (if (s.getV y).toNat ≥ (s.getV x).toNat then 1 else 0) ∧ OnlyRegistersChange [x, 15] s t)

/-- R74, R76, both settings of SHIFT_SOURCE (default: the spec's choice D14), VF written last (D16). -/
def Obligations.ShiftsMoveOneBitIntoVF : Prop :=
  ∀ (x y : Reg) (s : State) (src : Nat),
    src = (if s.cfg.shiftSource = .vx then s.getV x else s.getV y).toNat →
    decodeWord (0x8#4 ++ x.bits ++ y.bits ++ 0x6#4) = some (.shr x y) ∧
    decodeWord (0x8#4 ++ x.bits ++ y.bits ++ 0xE#4) = some (.shl x y) ∧
    (∃ t, exec (.shr x y) s = .next t ∧ (x ≠ 15 → (t.getV x).toNat = src / 2) ∧ (t.getV 15).toNat = src % 2 ∧
      OnlyRegistersChange [x, 15] s t) ∧
    (∃ t, exec (.shl x y) s = .next t ∧ (x ≠ 15 → (t.getV x).toNat = src * 2 % 256) ∧
      (t.getV 15).toNat = src / 128 ∧ OnlyRegistersChange [x, 15] s t)

/-- R77 with the choice D27: one byte is drawn, the next known byte of the injected source or else a free one, and its
AND with NN is written; whatever the byte, no bit outside NN is set. -/
def Obligations.RndMasksOneDrawnByte : Prop :=
  ∀ (x : Reg) (nn : Byte) (s : State),
    decodeWord (0xC#4 ++ x.bits ++ nn) = some (.rnd x nn) ∧
    ∃ t, exec (.rnd x nn) s = .next t ∧
      (∀ b rest, s.rngBytes = b :: rest → t.getV x = b &&& nn ∧ t.rngBytes = rest) ∧
      (s.rngBytes = [] → t.getV x = Config.freeByte s.rngDrawn &&& nn ∧ t.rngBytes = []) ∧
      (∀ j, nn.getLsbD j = false → (t.getV x).getLsbD j = false) ∧
      t.rngDrawn = s.rngDrawn + 1 ∧ (∀ r, r ≠ x → t.getV r = s.getV r) ∧
      t = { s with v := t.v, rngBytes := t.rngBytes, rngDrawn := t.rngDrawn }

/-! ## Address register and memory (42_index_memory.md) -/

/-- R78, R79: I is loaded and added to modulo 2^16; VF and every other item unchanged. -/
def Obligations.LdIAndAddISetAddressRegister : Prop :=
  ∀ (nnn : Addr12) (x : Reg) (s : State),
    decodeWord (0xA#4 ++ nnn) = some (.ldI nnn) ∧
    decodeWord (0xF#4 ++ x.bits ++ 0x1E#8) = some (.addIVx x) ∧
    (∃ t, exec (.ldI nnn) s = .next t ∧ t.i.toNat = nnn.toNat ∧ t = { s with i := t.i }) ∧
    (∃ t, exec (.addIVx x) s = .next t ∧ t.i.toNat = (s.i.toNat + (s.getV x).toNat) % 65536 ∧
      t = { s with i := t.i })

/-- R80 with the choice D25 (the digit is not reduced); where V[X] is a digit and the font's bytes still hold their
reset contents, whatever the rest of memory holds, I points at the five bytes of the digit's glyph (R115). -/
def Obligations.LdFPointsAtGlyph : Prop :=
  ∀ (x : Reg) (s : State),
    decodeWord (0xF#4 ++ x.bits ++ 0x29#8) = some (.ldFVx x) ∧
    ∃ t, exec (.ldFVx x) s = .next t ∧ t.i.toNat = s.cfg.fontBase.val + 5 * (s.getV x).toNat ∧
      t = { s with i := t.i } ∧
      ((∀ a, s.cfg.fontBase.val ≤ a → a < s.cfg.fontBase.val + 80 → s.readMem a = resetByte s.cfg a) →
        ∀ k (_ : k < 5) (h : 5 * (s.getV x).toNat + k < 80),
        t.readMem (t.i.toNat + k) = s.cfg.fontTable[5 * (s.getV x).toNat + k])

/-- R81: the three digits are stored at the effective addresses of I, I + 1, I + 2, every other byte is unchanged, and
under DATA_ADDR_POLICY = reject the least address above 0xFFF is raised. Memory is in its canonical form. -/
def Obligations.LdBStoresDecimalDigits : Prop :=
  ∀ (x : Reg) (s : State),
    decodeWord (0xF#4 ++ x.bits ++ 0x33#8) = some (.ldBVx x) ∧
    (¬ s.DataInside 3 → exec (.ldBVx x) s = .fault (.addressOutOfRange (max s.i.toNat 0x1000))) ∧
    (Memory.wf s.cfg s.mem = true → s.DataInside 3 → ∃ t, exec (.ldBVx x) s = .next t ∧
      (∀ a, effAddr s.cfg.dataAddrPolicy s.i.toNat = .ok a → (t.readMem a).toNat = (s.getV x).toNat / 100) ∧
      (∀ a, effAddr s.cfg.dataAddrPolicy (s.i.toNat + 1) = .ok a →
        (t.readMem a).toNat = (s.getV x).toNat / 10 % 10) ∧
      (∀ a, effAddr s.cfg.dataAddrPolicy (s.i.toNat + 2) = .ok a → (t.readMem a).toNat = (s.getV x).toNat % 10) ∧
      (∀ a, (∀ k, k < 3 → effAddr s.cfg.dataAddrPolicy (s.i.toNat + k) ≠ .ok a) → t.readMem a = s.readMem a) ∧
      t = { s with mem := t.mem })

/-- R82 with the choice D18 (I unchanged): V0..VX are stored at the effective addresses of I..I+X, every other byte is
unchanged, and an access that leaves memory raises under reject. Memory is in its canonical form. -/
def Obligations.LdMemVxStoresRegisters : Prop :=
  ∀ (x : Reg) (s : State),
    decodeWord (0xF#4 ++ x.bits ++ 0x55#8) = some (.ldMemVx x) ∧
    (¬ s.DataInside (x.val + 1) → exec (.ldMemVx x) s = .fault (.addressOutOfRange (max s.i.toNat 0x1000))) ∧
    (Memory.wf s.cfg s.mem = true → s.DataInside (x.val + 1) → ∃ t, exec (.ldMemVx x) s = .next t ∧
      (∀ (r : Reg) (a : Nat), r.val ≤ x.val → effAddr s.cfg.dataAddrPolicy (s.i.toNat + r.val) = .ok a →
        t.readMem a = s.getV r) ∧
      (∀ a, (∀ k, k ≤ x.val → effAddr s.cfg.dataAddrPolicy (s.i.toNat + k) ≠ .ok a) →
        t.readMem a = s.readMem a) ∧
      t = { s with mem := t.mem })

/-- R83 with the choice D18 (I unchanged): V0..VX are loaded from the effective addresses of I..I+X, and every other
register and item, memory too, is unchanged. -/
def Obligations.LdVxMemLoadsRegisters : Prop :=
  ∀ (x : Reg) (s : State),
    decodeWord (0xF#4 ++ x.bits ++ 0x65#8) = some (.ldVxMem x) ∧
    (¬ s.DataInside (x.val + 1) → exec (.ldVxMem x) s = .fault (.addressOutOfRange (max s.i.toNat 0x1000))) ∧
    (s.DataInside (x.val + 1) → ∃ t, exec (.ldVxMem x) s = .next t ∧
      (∀ (r : Reg) (a : Nat), r.val ≤ x.val → effAddr s.cfg.dataAddrPolicy (s.i.toNat + r.val) = .ok a →
        t.getV r = s.readMem a) ∧
      (∀ r : Reg, x.val < r.val → t.getV r = s.getV r) ∧ t = { s with v := t.v })

/-- R82, R83: loading back what was just stored at the same I gives the registers of before, V0..VX. -/
def Obligations.LoadAfterStoreRestoresRegisters : Prop :=
  ∀ (x : Reg) (s : State) (v' : Vector Byte 16), Memory.wf s.cfg s.mem = true → s.DataInside (x.val + 1) →
    ∃ t u, exec (.ldMemVx x) s = .next t ∧ exec (.ldVxMem x) { t with v := v' } = .next u ∧
      ∀ r : Reg, r.val ≤ x.val → u.getV r = s.getV r

/-- R38 with the choice D30: two neighbouring registers stored where PC points are the word the next fetch reads. -/
def Obligations.StoredBytesAreFetched : Prop :=
  ∀ (x r r' : Reg) (s t : State), Memory.wf s.cfg s.mem = true →
    r.val + 1 = r'.val → r'.val ≤ x.val → s.i.toNat + r'.val ≤ 0xFFF → s.pc.toNat = s.i.toNat + r.val →
    exec (.ldMemVx x) s = .next t → t.fetch = .ok (Word.ofBytes (s.getV r) (s.getV r'))

/-! ## Display (43_display.md) -/

/-- R85 with the choice D21 (redraw is set). -/
def Obligations.ClsClearsEveryPixel : Prop :=
  ∀ s : State, decodeWord 0x00E0 = some .cls ∧
    ∃ t, exec .cls s = .next t ∧ (∀ x y, pixel t.fb x y = false) ∧
      t = { s with fb := t.fb, effect := { s.effect with redraw := true } }

/-- R86, R84 with the choices D19 (bit order) and D20 (N = 0): a pixel under a 1 bit of the sprite is flipped, every
other pixel is unchanged, VF is 1 exactly if a flipped pixel was set, redraw is set, nothing else changes; an access
that leaves memory raises under reject. -/
def Obligations.DrwXorsSpriteAndReportsCollision : Prop :=
  ∀ (x y : Reg) (n : Nat) (s : State), n ≤ 15 →
    decodeWord (0xD#4 ++ x.bits ++ y.bits ++ BitVec.ofNat 4 n) = some (.drw x y n) ∧
    (¬ s.DataInside n → 0 < n → exec (.drw x y n) s = .fault (.addressOutOfRange (max s.i.toNat 0x1000))) ∧
    (s.DataInside n ∨ n = 0 → ∃ t, exec (.drw x y n) s = .next t ∧
      (∀ px py, s.SpriteCovers x y n px py → pixel t.fb px py = !pixel s.fb px py) ∧
      (∀ px py, ¬ s.SpriteCovers x y n px py → pixel t.fb px py = pixel s.fb px py) ∧
      (t.getV 15 = 1 ∨ t.getV 15 = 0) ∧
      (t.getV 15 = 1 ↔ ∃ px py, s.SpriteCovers x y n px py ∧ pixel s.fb px py = true) ∧
      (∀ r, r ≠ 15 → t.getV r = s.getV r) ∧
      t = { s with v := t.v, fb := t.fb, effect := { s.effect with redraw := true } })

/-- R86 (the source's XOR self-inverse): a sprite drawn twice at the same coordinates leaves the framebuffer as it
was, and the second draw collides exactly if the first turned some pixel on. -/
def Obligations.DrwTwiceRestoresFramebuffer : Prop :=
  ∀ (x y : Reg) (n : Nat) (s : State), n ≤ 15 → x ≠ 15 → y ≠ 15 → s.DataInside n ∨ n = 0 →
    ∃ t u, exec (.drw x y n) s = .next t ∧ exec (.drw x y n) t = .next u ∧ u.fb = s.fb ∧
      (u.getV 15 = 1 ↔ ∃ px py, pixel s.fb px py = false ∧ pixel t.fb px py = true)

/-! ## Timers, keypad, the key wait (44_timers_keys.md) -/

/-- R87, R88, R89 with the spec's choice D22 (which opcode does what). -/
def Obligations.TimerInstructionsMoveBytes : Prop :=
  ∀ (x : Reg) (s : State),
    decodeWord (0xF#4 ++ x.bits ++ 0x07#8) = some (.ldVxDt x) ∧
    decodeWord (0xF#4 ++ x.bits ++ 0x15#8) = some (.ldDtVx x) ∧
    decodeWord (0xF#4 ++ x.bits ++ 0x18#8) = some (.ldStVx x) ∧
    (∃ t, exec (.ldVxDt x) s = .next t ∧ t.getV x = s.dt ∧ OnlyRegistersChange [x] s t) ∧
    exec (.ldDtVx x) s = .next { s with dt := s.getV x } ∧
    exec (.ldStVx x) s = .next { s with st := s.getV x }

/-- R90, R91 with the choice D23: a value above 15 counts as a key not pressed. -/
def Obligations.KeySkipsTestKeypad : Prop :=
  ∀ (x : Reg) (s : State),
    decodeWord (0xE#4 ++ x.bits ++ 0x9E#8) = some (.skp x) ∧
    decodeWord (0xE#4 ++ x.bits ++ 0xA1#8) = some (.sknp x) ∧
    ((∃ k : Key, (s.getV x).toNat = k.val ∧ s.keys.getLsbD k.val = true) →
      exec (.skp x) s = .next { s with pc := s.pc + 2 } ∧ exec (.sknp x) s = .next s) ∧
    ((¬∃ k : Key, (s.getV x).toNat = k.val ∧ s.keys.getLsbD k.val = true) →
      exec (.skp x) s = .next s ∧ exec (.sknp x) s = .next { s with pc := s.pc + 2 })

/-- R92 with the choice D24: FX0A only enters the suspended state, remembering X and the keypad. -/
def Obligations.LdVxKSuspends : Prop :=
  ∀ (x : Reg) (s : State),
    decodeWord (0xF#4 ++ x.bits ++ 0x0A#8) = some (.ldVxK x) ∧
    exec (.ldVxK x) s = .next { s with waitActive := true, waitX := x, waitSnap := s.keys,
                                       effect := { s.effect with halted := true } }

/-! ## The host's transactions (60_exceptions.md, 70_reset_and_hazards.md) -/

/-- R105 with the choice D34: both timers count down to 0 and stay there, suspended or not; nothing else changes. -/
def Obligations.TickCountsTimersDown : Prop :=
  ∀ s : State, ∃ t, transact s .tickTimers = (t, .done) ∧ t.dt.toNat = s.dt.toNat - 1 ∧ t.st.toNat = s.st.toNat - 1 ∧
    t = { s with dt := t.dt, st := t.st }

/-- R105, R118: a tick before or after an instruction that is not FX07, FX15 or FX18, or before or after a waiting
step, makes no difference. -/
def Obligations.TicksCommuteWithOtherInstructions : Prop :=
  (∀ (i : Instr) (s t : State), (∀ x, i ≠ .ldVxDt x) → (∀ x, i ≠ .ldDtVx x) → (∀ x, i ≠ .ldStVx x) →
    exec i s = .next t → exec i s.tickTimers = .next t.tickTimers) ∧
  (∀ s t : State, s.waitActive = true → step s = .next t → step s.tickTimers = .next t.tickTimers)

/-- R106 with the choice D35: set_key writes one bit of KEYS and nothing else; a symbol above 15 is refused. -/
def Obligations.SetKeyWritesOneKey : Prop :=
  ∀ (k : Nat) (p : Bool) (s : State),
    (k ≤ 15 → ∃ t, transact s (.setKey k p) = (t, .done) ∧ t = { s with keys := t.keys } ∧
      ∀ j : Key, t.keys.getLsbD j.val = if j.val = k then p else s.keys.getLsbD j.val) ∧
    (15 < k → transact s (.setKey k p) = (s, .refused (.keySymbolOutOfRange k)))

/-- R116 with the choice D28: the image is copied to 0x200 up, the rest of memory and of the state unchanged; an image
longer than 3584 bytes raises ImageTooLarge. Memory is in its canonical form. -/
def Obligations.LoadCopiesImage : Prop :=
  ∀ (image : List Byte) (s : State),
    (3584 < image.length → transact s (.load image) = (s, .error (.imageTooLarge image.length))) ∧
    (image.length ≤ 3584 → Memory.wf s.cfg s.mem = true → ∃ t, transact s (.load image) = (t, .done) ∧
      (∀ j (h : j < image.length), t.readMem (0x200 + j) = image[j]) ∧
      (∀ a, a < 0x200 ∨ 0x200 + image.length ≤ a → t.readMem a = s.readMem a) ∧ t = { s with mem := t.mem })

/-- R117 (with D3): after construct and load the first step runs the instruction in the image's first two bytes; with
no image the first step raises UnknownOpcode(0x0000). -/
def Obligations.FirstStepRunsLoadedImage : Prop :=
  ∀ (c : Config) (rng : List Byte),
    step (State.construct c rng) = .fault (.unknownOpcode 0x0000) ∧
    ∀ (hi lo : Byte) (rest : List Byte) (i : Instr), rest.length + 2 ≤ 3584 →
      decodeWord (Word.ofBytes hi lo) = some i →
      ∃ t, transact (State.construct c rng) (.load (hi :: lo :: rest)) = (t, .done) ∧
        step t = exec i { t with effect := StepEffect.none, pc := 0x202 }

/-- R107 with the choice D39 (pixel (x, y) at index x + 64 * y; log 16 for the order of the other lists): the read
port gives the value of each field and changes nothing. -/
def Obligations.ReadPortChangesNothing : Prop :=
  ∀ s : State,
    transact s (.read .v) = (s, .value (List.ofFn fun r : Reg => (s.getV r).toNat)) ∧
    transact s (.read .i) = (s, .value [s.i.toNat]) ∧
    transact s (.read .pc) = (s, .value [s.pc.toNat]) ∧
    transact s (.read .stack) = (s, .value (List.ofFn fun j : Fin 16 => s.stack[j.val].toNat)) ∧
    transact s (.read .sp) = (s, .value [s.sp.val]) ∧
    transact s (.read .dt) = (s, .value [s.dt.toNat]) ∧
    transact s (.read .st) = (s, .value [s.st.toNat]) ∧
    (∃ ns, transact s (.read .framebuffer) = (s, .value ns) ∧ ns.length = 2048 ∧
      ∀ (x : Col) (y : Line), ns[x.val + 64 * y.val]? = some (if pixel s.fb x y then 1 else 0)) ∧
    transact s (.read .keys) = (s, .value (List.ofFn fun k : Key => if s.keys.getLsbD k.val then 1 else 0)) ∧
    transact s (.read .memory) = (s, .value (List.ofFn fun a : Fin 4096 => (s.readMem a.val).toNat)) ∧
    transact s (.read .waitActive) = (s, .value [if s.waitActive then 1 else 0]) ∧
    transact s (.read .waitX) = (s, .value [s.waitX.val]) ∧
    transact s (.read .waitSnap) = (s, .value [s.waitSnap.toNat])

/-! ## Whole-machine rules -/

/-- R6, R12, R14 to R20, R22, R31, R77 (and D26, D27): which instructions write which item of state. -/
def Obligations.OnlyNamedInstructionsWriteEachItem : Prop :=
  ∀ (i : Instr) (s t : State), exec i s = .next t →
    t.cfg = s.cfg ∧ t.keys = s.keys ∧
    ((∀ x, i ≠ .ldDtVx x) → t.dt = s.dt) ∧
    ((∀ x, i ≠ .ldStVx x) → t.st = s.st) ∧
    ((∀ nnn, i ≠ .ldI nnn) → (∀ x, i ≠ .addIVx x) → (∀ x, i ≠ .ldFVx x) → t.i = s.i) ∧
    ((∀ nnn, i ≠ .call nnn) → t.stack = s.stack) ∧
    ((∀ nnn, i ≠ .call nnn) → i ≠ .ret → t.sp = s.sp) ∧
    (i ≠ .cls → (∀ x y n, i ≠ .drw x y n) → t.fb = s.fb) ∧
    ((∀ x, i ≠ .ldBVx x) → (∀ x, i ≠ .ldMemVx x) → t.mem = s.mem ∧ ∀ a, t.readMem a = s.readMem a) ∧
    ((∀ x, i ≠ .ldVxK x) → t.waitActive = s.waitActive ∧ t.waitX = s.waitX ∧ t.waitSnap = s.waitSnap) ∧
    ((∀ x nn, i ≠ .rnd x nn) → t.rngBytes = s.rngBytes ∧ t.rngDrawn = s.rngDrawn)

/-- R52, R55: an instruction that neither skips nor jumps leaves PC at the advanced value, and a skip leaves it there
or 2 further. -/
def Obligations.OnlyControlTransferMovesPc : Prop :=
  ∀ (i : Instr) (s t : State), exec i s = .next t →
    t.pc = s.pc ∨
    (t.pc = s.pc + 2 ∧ ((∃ x nn, i = .seImm x nn ∨ i = .sneImm x nn) ∨ (∃ x y, i = .seReg x y ∨ i = .sneReg x y) ∨
      (∃ x, i = .skp x ∨ i = .sknp x))) ∨
    i = .ret ∨ (∃ nnn, i = .jp nnn ∨ i = .call nnn ∨ i = .jpV0 nnn)

/-- R12: VF changes only by the six flag-writing instructions, or by an instruction that names it as its
destination. -/
def Obligations.VFChangesOnlyAsFlagOrDestination : Prop :=
  ∀ (i : Instr) (s t : State), exec i s = .next t → t.getV 15 ≠ s.getV 15 →
    (∃ x y, i = .addReg x y ∨ i = .subReg x y ∨ i = .subn x y ∨ i = .shr x y ∨ i = .shl x y ∨ ∃ n, i = .drw x y n) ∨
    (∃ nn, i = .ldImm 15 nn ∨ i = .addImm 15 nn ∨ i = .rnd 15 nn) ∨
    (∃ y, i = .ldReg 15 y ∨ i = .orReg 15 y ∨ i = .andReg 15 y ∨ i = .xorReg 15 y) ∨
    i = .ldVxDt 15 ∨ i = .ldVxMem 15

/-- R6, R20: no transaction changes the configuration, and only set_key changes the keypad latch. -/
def Obligations.OnlySetKeyChangesKeypad : Prop :=
  ∀ (s : State) (x : Transaction), (transact s x).1.cfg = s.cfg ∧
    ((∀ k p, x ≠ .setKey k p) → (transact s x).1.keys = s.keys)
end

