-- ==== Sys2Proof/Laws/Decode.lean ====
section
/-! SUPPORT. The bits and the fields of the words the encoder builds: one lemma per field per format. -/

namespace Sys2Proof

@[simp] theorem Reg.toFin_bits (x : Reg) : (Reg.bits x).toFin = x := rfl

/-! ## Bits of the formats, and of two bytes put together -/

theorem getLsbD_wordAddr (f : BitVec 4) (a : Addr12) (i : Nat) :
    (wordAddr f a).getLsbD i = if i < 12 then a.getLsbD i else f.getLsbD (i - 12) :=
  BitVec.getLsbD_append (x := f) (y := a)

theorem getLsbD_wordRegByte (f : BitVec 4) (x : Reg) (k : Byte) (i : Nat) :
    (wordRegByte f x k).getLsbD i =
      if i < 8 then k.getLsbD i else if i - 8 < 4 then x.bits.getLsbD (i - 8) else f.getLsbD (i - 8 - 4) :=
  (BitVec.getLsbD_append (x := f ++ x.bits) (y := k)).trans (by rw [BitVec.getLsbD_append])

theorem getLsbD_wordRegReg (f : BitVec 4) (x y : Reg) (n : BitVec 4) (i : Nat) :
    (wordRegReg f x y n).getLsbD i =
      if i < 8 then (if i < 4 then n.getLsbD i else y.bits.getLsbD (i - 4))
      else if i - 8 < 4 then x.bits.getLsbD (i - 8) else f.getLsbD (i - 8 - 4) :=
  (BitVec.getLsbD_append (x := f ++ x.bits) (y := y.bits ++ n)).trans (by
    rw [BitVec.getLsbD_append, BitVec.getLsbD_append])

theorem getLsbD_ofBytes (hi lo : Byte) (i : Nat) :
    (Word.ofBytes hi lo).getLsbD i = if i < 8 then lo.getLsbD i else hi.getLsbD (i - 8) :=
  BitVec.getLsbD_append (x := hi) (y := lo)

/-! ## Format ADDR -/

@[simp] theorem fieldF_wordAddr (f : BitVec 4) (a : Addr12) : fieldF (wordAddr f a) = f := by
  ext i hi
  simp [fieldF, getLsbD_wordAddr, hi]

@[simp] theorem fieldNNN_wordAddr (f : BitVec 4) (a : Addr12) : fieldNNN (wordAddr f a) = a := by
  ext i hi
  simp [fieldNNN, getLsbD_wordAddr, hi]

/-! ## Formats REG_IMM and REG -/

@[simp] theorem fieldF_wordRegByte (f : BitVec 4) (x : Reg) (k : Byte) : fieldF (wordRegByte f x k) = f := by
  ext i hi
  simp [fieldF, getLsbD_wordRegByte, show ¬12 + i < 8 by omega, show ¬12 + i - 8 < 4 by omega,
    show 12 + i - 8 - 4 = i by omega, hi]

@[simp] theorem fieldX_wordRegByte (f : BitVec 4) (x : Reg) (k : Byte) : fieldX (wordRegByte f x k) = x := by
  have h : (wordRegByte f x k).extractLsb' 8 4 = x.bits := by
    ext i hi
    simp [getLsbD_wordRegByte, hi]
  simp only [fieldX, h, Reg.toFin_bits]

@[simp] theorem fieldNN_wordRegByte (f : BitVec 4) (x : Reg) (k : Byte) : fieldNN (wordRegByte f x k) = k := by
  ext i hi
  simp [fieldNN, getLsbD_wordRegByte, hi]

/-! ## Formats REG_REG and DRAW -/

@[simp] theorem fieldF_wordRegReg (f : BitVec 4) (x y : Reg) (n : BitVec 4) : fieldF (wordRegReg f x y n) = f := by
  ext i hi
  simp [fieldF, getLsbD_wordRegReg, show ¬12 + i < 8 by omega, show ¬12 + i - 8 < 4 by omega,
    show 12 + i - 8 - 4 = i by omega, hi]

@[simp] theorem fieldX_wordRegReg (f : BitVec 4) (x y : Reg) (n : BitVec 4) : fieldX (wordRegReg f x y n) = x := by
  have h : (wordRegReg f x y n).extractLsb' 8 4 = x.bits := by
    ext i hi
    simp [getLsbD_wordRegReg, hi]
  simp only [fieldX, h, Reg.toFin_bits]

@[simp] theorem fieldY_wordRegReg (f : BitVec 4) (x y : Reg) (n : BitVec 4) : fieldY (wordRegReg f x y n) = y := by
  have h : (wordRegReg f x y n).extractLsb' 4 4 = y.bits := by
    ext i hi
    simp [getLsbD_wordRegReg, show 4 + i < 8 by omega, hi]
  simp only [fieldY, h, Reg.toFin_bits]

@[simp] theorem fieldN_wordRegReg (f : BitVec 4) (x y : Reg) (n : BitVec 4) : fieldN (wordRegReg f x y n) = n := by
  ext i hi
  simp [fieldN, getLsbD_wordRegReg, show i < 8 by omega, hi]

/-! ## Bytes -/

/-- The two bytes of a word, put together again. -/
@[simp] theorem Word.ofBytes_hiByte_loByte (w : Word) : Word.ofBytes w.hiByte w.loByte = w := by
  apply BitVec.eq_of_getLsbD_eq
  intro i hi
  rw [getLsbD_ofBytes]
  split
  · simp [*]
  · simp [show i - 8 < 8 by omega, show 8 + (i - 8) = i by omega]

/-- Decoding the two bytes of a word is decoding the word. -/
theorem decode_bytes_of_word {w : Word} {i : Instr} (rest : List Byte) (h : decodeWord w = some i) :
    decode (w.hiByte :: w.loByte :: rest) = .ok (i, rest) := by
  simp only [decode, Word.ofBytes_hiByte_loByte, h]

end Sys2Proof
end

