-- ==== Sys2Proof/Laws/Memory.lean ====
section
/-! SUPPORT. The laws of memory as plain data: reading after writing, and that every memory operation keeps the
canonical form. -/

namespace Sys2Proof.Machine

variable (c : Config)

/-! ## Finding a listed byte -/

theorem Memory.find_put_same (m : Memory) (a : Nat) (b : Byte) : Memory.find a (Memory.put a b m) = some b := by
  induction m with
  | nil => simp [Memory.put, Memory.find]
  | cons e rest ih =>
    obtain ⟨k, v⟩ := e
    simp only [Memory.put]
    split
    · simp [Memory.find]
    · split
      · simp [Memory.find]
      · rename_i h1 h2
        simp [Memory.find, Ne.symm h2, ih]

theorem Memory.find_put_ne (m : Memory) {a a' : Nat} (b : Byte) (h : a' ≠ a) :
    Memory.find a' (Memory.put a b m) = Memory.find a' m := by
  induction m with
  | nil => simp [Memory.put, Memory.find, Ne.symm h]
  | cons e rest ih =>
    obtain ⟨k, v⟩ := e
    simp only [Memory.put]
    split
    · simp [Memory.find, Ne.symm h]
    · split
      · rename_i _ hk
        subst hk
        simp [Memory.find, Ne.symm h]
      · simp [Memory.find, ih]

/-- Below the lowest address of a canonical list nothing is listed. -/
theorem Memory.find_below {m : Memory} {lo a : Nat} (hm : Memory.wfFrom c lo m = true) (h : a < lo) :
    Memory.find a m = none := by
  induction m generalizing lo with
  | nil => rfl
  | cons e rest ih =>
    obtain ⟨k, v⟩ := e
    simp only [Memory.wfFrom, Bool.and_eq_true, decide_eq_true_eq] at hm
    obtain ⟨⟨⟨hlo, -⟩, -⟩, hrest⟩ := hm
    simp [Memory.find, show k ≠ a by omega, ih hrest (by omega)]

theorem Memory.find_drop_same {m : Memory} {lo : Nat} (a : Nat) (hm : Memory.wfFrom c lo m = true) :
    Memory.find a (Memory.drop a m) = none := by
  induction m generalizing lo with
  | nil => rfl
  | cons e rest ih =>
    obtain ⟨k, v⟩ := e
    simp only [Memory.wfFrom, Bool.and_eq_true, decide_eq_true_eq] at hm
    simp only [Memory.drop]
    split
    · rename_i hk
      exact Memory.find_below c hm.2 (by omega)
    · rename_i hk
      simp [Memory.find, hk, ih hm.2]

theorem Memory.find_drop_ne (m : Memory) {a a' : Nat} (h : a' ≠ a) :
    Memory.find a' (Memory.drop a m) = Memory.find a' m := by
  induction m with
  | nil => rfl
  | cons e rest ih =>
    obtain ⟨k, v⟩ := e
    simp only [Memory.drop]
    split
    · rename_i hk
      simp [Memory.find, show k ≠ a' by omega]
    · simp [Memory.find, ih]

/-! ## Reading after writing -/

/-- A byte written to a canonical memory is read back. -/
theorem Memory.read_write_same {m : Memory} (a : Nat) (b : Byte) (hm : Memory.wf c m = true) :
    Memory.read c (Memory.write c m a b) a = b := by
  simp only [Memory.write, Memory.read]
  split
  · rename_i hb
    simp [Memory.find_drop_same c a hm, hb]
  · simp [Memory.find_put_same]

/-- A write leaves every other address alone. -/
theorem Memory.read_write_ne (m : Memory) {a a' : Nat} (b : Byte) (h : a' ≠ a) :
    Memory.read c (Memory.write c m a b) a' = Memory.read c m a' := by
  simp only [Memory.write, Memory.read]
  split
  · rw [Memory.find_drop_ne m h]
  · rw [Memory.find_put_ne m b h]

@[simp] theorem Memory.read_nil (a : Nat) : Memory.read c [] a = resetByte c a := rfl

/-! ## The canonical form -/

theorem Memory.wfFrom_mono {m : Memory} {lo lo' : Nat} (h : lo' ≤ lo) (hm : Memory.wfFrom c lo m = true) :
    Memory.wfFrom c lo' m = true := by
  cases m with
  | nil => rfl
  | cons e rest =>
    obtain ⟨k, v⟩ := e
    simp only [Memory.wfFrom, Bool.and_eq_true, decide_eq_true_eq] at hm ⊢
    exact ⟨⟨⟨by omega, hm.1.1.2⟩, hm.1.2⟩, hm.2⟩

theorem Memory.wfFrom_put {m : Memory} {lo a : Nat} {b : Byte} (hm : Memory.wfFrom c lo m = true) (hlo : lo ≤ a)
    (ha : a < memSize) (hb : b ≠ resetByte c a) : Memory.wfFrom c lo (Memory.put a b m) = true := by
  induction m generalizing lo with
  | nil => simp [Memory.put, Memory.wfFrom, hlo, ha, hb]
  | cons e rest ih =>
    obtain ⟨k, v⟩ := e
    simp only [Memory.wfFrom, Bool.and_eq_true, decide_eq_true_eq] at hm
    obtain ⟨⟨⟨hk, hks⟩, hv⟩, hrest⟩ := hm
    simp only [Memory.put]
    split
    · rename_i h
      simp [Memory.wfFrom, hlo, ha, hb, hks, hv, hrest, show a + 1 ≤ k from h]
    · split
      · rename_i h
        subst h
        simp [Memory.wfFrom, hlo, ha, hb, hrest]
      · simp [Memory.wfFrom, hk, hks, hv, ih hrest (by omega)]

theorem Memory.wfFrom_drop {m : Memory} {lo : Nat} (a : Nat) (hm : Memory.wfFrom c lo m = true) :
    Memory.wfFrom c lo (Memory.drop a m) = true := by
  induction m generalizing lo with
  | nil => rfl
  | cons e rest ih =>
    obtain ⟨k, v⟩ := e
    simp only [Memory.wfFrom, Bool.and_eq_true, decide_eq_true_eq] at hm
    obtain ⟨⟨⟨hk, hks⟩, hv⟩, hrest⟩ := hm
    simp only [Memory.drop]
    split
    · exact Memory.wfFrom_mono c (by omega) hrest
    · simp [Memory.wfFrom, hk, hks, hv, ih hrest]

/-- A write inside memory keeps the canonical form. -/
theorem Memory.wf_write {m : Memory} {a : Nat} (b : Byte) (hm : Memory.wf c m = true) (ha : a < memSize) :
    Memory.wf c (Memory.write c m a b) = true := by
  simp only [Memory.write]
  split
  · exact Memory.wfFrom_drop c a hm
  · exact Memory.wfFrom_put c hm (Nat.zero_le a) ha ‹_›

@[simp] theorem Memory.wf_nil : Memory.wf c [] = true := rfl

/-! ## Sequences of writes -/

@[simp] theorem Memory.writeAll_nil (m : Memory) : Memory.writeAll c m [] = m := rfl

@[simp] theorem Memory.writeAll_cons (m : Memory) (a : Nat) (b : Byte) (rest : List Host.Cell) :
    Memory.writeAll c m ((a, b) :: rest) = Memory.writeAll c (Memory.write c m a b) rest := rfl

/-- Writes inside memory keep the canonical form. -/
theorem Memory.wf_writeAll {m : Memory} (cells : List Host.Cell) (hm : Memory.wf c m = true)
    (h : ∀ e ∈ cells, e.1 < memSize) : Memory.wf c (Memory.writeAll c m cells) = true := by
  induction cells generalizing m with
  | nil => exact hm
  | cons e rest ih =>
    obtain ⟨a, b⟩ := e
    exact ih (Memory.wf_write c b hm (h (a, b) (by simp))) fun e he => h e (by simp [he])

/-- An address none of the writes names reads as before. -/
theorem Memory.read_writeAll_ne (m : Memory) (cells : List Host.Cell) {a : Nat} (h : ∀ e ∈ cells, e.1 ≠ a) :
    Memory.read c (Memory.writeAll c m cells) a = Memory.read c m a := by
  induction cells generalizing m with
  | nil => rfl
  | cons e rest ih =>
    obtain ⟨k, b⟩ := e
    rw [Memory.writeAll_cons, ih _ fun e he => h e (by simp [he]),
      Memory.read_write_ne c m b (Ne.symm (h (k, b) (by simp)))]

/-- Of writes at addresses that all differ, each is read back. -/
theorem Memory.read_writeAll_mem {m : Memory} (cells : List Host.Cell) {a : Nat} {b : Byte}
    (hm : Memory.wf c m = true) (hin : ∀ e ∈ cells, e.1 < memSize) (hd : (cells.map Prod.fst).Nodup)
    (h : (a, b) ∈ cells) : Memory.read c (Memory.writeAll c m cells) a = b := by
  induction cells generalizing m with
  | nil => simp at h
  | cons e rest ih =>
    obtain ⟨k, v⟩ := e
    rw [List.map_cons, List.nodup_cons] at hd
    have hw : Memory.wf c (Memory.write c m k v) = true := Memory.wf_write c v hm (hin (k, v) (by simp))
    rcases List.mem_cons.mp h with heq | hr
    · obtain ⟨rfl, rfl⟩ := Prod.mk.inj heq
      rw [Memory.writeAll_cons, Memory.read_writeAll_ne c _ rest]
      · exact Memory.read_write_same c a b hm
      · intro e he hea
        exact hd.1 (List.mem_map.mpr ⟨e, he, hea⟩)
    · exact ih hw (fun e he => hin e (by simp [he])) hd.2 hr

end Sys2Proof.Machine
end

