-- ==== Sys2Proof/Laws/State.lean ====
section
/-! SUPPORT. One lemma per field of State per update of Machine/Ops.lean, so that no proof unfolds a record update. -/

namespace Sys2Proof.Machine

variable (s : State)

/-! `setV` -/

@[simp] theorem State.setV_cfg (r : Reg) (b : Byte) : (s.setV r b).cfg = s.cfg := rfl
@[simp] theorem State.setV_v (r : Reg) (b : Byte) : (s.setV r b).v = s.v.set r.val b := rfl
@[simp] theorem State.setV_i (r : Reg) (b : Byte) : (s.setV r b).i = s.i := rfl
@[simp] theorem State.setV_pc (r : Reg) (b : Byte) : (s.setV r b).pc = s.pc := rfl
@[simp] theorem State.setV_stack (r : Reg) (b : Byte) : (s.setV r b).stack = s.stack := rfl
@[simp] theorem State.setV_sp (r : Reg) (b : Byte) : (s.setV r b).sp = s.sp := rfl
@[simp] theorem State.setV_dt (r : Reg) (b : Byte) : (s.setV r b).dt = s.dt := rfl
@[simp] theorem State.setV_st (r : Reg) (b : Byte) : (s.setV r b).st = s.st := rfl
@[simp] theorem State.setV_fb (r : Reg) (b : Byte) : (s.setV r b).fb = s.fb := rfl
@[simp] theorem State.setV_keys (r : Reg) (b : Byte) : (s.setV r b).keys = s.keys := rfl
@[simp] theorem State.setV_mem (r : Reg) (b : Byte) : (s.setV r b).mem = s.mem := rfl
@[simp] theorem State.setV_waitActive (r : Reg) (b : Byte) : (s.setV r b).waitActive = s.waitActive := rfl
@[simp] theorem State.setV_waitX (r : Reg) (b : Byte) : (s.setV r b).waitX = s.waitX := rfl
@[simp] theorem State.setV_waitSnap (r : Reg) (b : Byte) : (s.setV r b).waitSnap = s.waitSnap := rfl
@[simp] theorem State.setV_rngBytes (r : Reg) (b : Byte) : (s.setV r b).rngBytes = s.rngBytes := rfl
@[simp] theorem State.setV_rngDrawn (r : Reg) (b : Byte) : (s.setV r b).rngDrawn = s.rngDrawn := rfl
@[simp] theorem State.setV_effect (r : Reg) (b : Byte) : (s.setV r b).effect = s.effect := rfl

/-! `setRegs` -/

@[simp] theorem State.setRegs_cfg (v : Vector Byte 16) : (s.setRegs v).cfg = s.cfg := rfl
@[simp] theorem State.setRegs_v (v : Vector Byte 16) : (s.setRegs v).v = v := rfl
@[simp] theorem State.setRegs_i (v : Vector Byte 16) : (s.setRegs v).i = s.i := rfl
@[simp] theorem State.setRegs_pc (v : Vector Byte 16) : (s.setRegs v).pc = s.pc := rfl
@[simp] theorem State.setRegs_stack (v : Vector Byte 16) : (s.setRegs v).stack = s.stack := rfl
@[simp] theorem State.setRegs_sp (v : Vector Byte 16) : (s.setRegs v).sp = s.sp := rfl
@[simp] theorem State.setRegs_dt (v : Vector Byte 16) : (s.setRegs v).dt = s.dt := rfl
@[simp] theorem State.setRegs_st (v : Vector Byte 16) : (s.setRegs v).st = s.st := rfl
@[simp] theorem State.setRegs_fb (v : Vector Byte 16) : (s.setRegs v).fb = s.fb := rfl
@[simp] theorem State.setRegs_keys (v : Vector Byte 16) : (s.setRegs v).keys = s.keys := rfl
@[simp] theorem State.setRegs_mem (v : Vector Byte 16) : (s.setRegs v).mem = s.mem := rfl
@[simp] theorem State.setRegs_waitActive (v : Vector Byte 16) : (s.setRegs v).waitActive = s.waitActive := rfl
@[simp] theorem State.setRegs_waitX (v : Vector Byte 16) : (s.setRegs v).waitX = s.waitX := rfl
@[simp] theorem State.setRegs_waitSnap (v : Vector Byte 16) : (s.setRegs v).waitSnap = s.waitSnap := rfl
@[simp] theorem State.setRegs_rngBytes (v : Vector Byte 16) : (s.setRegs v).rngBytes = s.rngBytes := rfl
@[simp] theorem State.setRegs_rngDrawn (v : Vector Byte 16) : (s.setRegs v).rngDrawn = s.rngDrawn := rfl
@[simp] theorem State.setRegs_effect (v : Vector Byte 16) : (s.setRegs v).effect = s.effect := rfl

/-! `setPc` -/

@[simp] theorem State.setPc_cfg (w : Word) : (s.setPc w).cfg = s.cfg := rfl
@[simp] theorem State.setPc_v (w : Word) : (s.setPc w).v = s.v := rfl
@[simp] theorem State.setPc_i (w : Word) : (s.setPc w).i = s.i := rfl
@[simp] theorem State.setPc_pc (w : Word) : (s.setPc w).pc = w := rfl
@[simp] theorem State.setPc_stack (w : Word) : (s.setPc w).stack = s.stack := rfl
@[simp] theorem State.setPc_sp (w : Word) : (s.setPc w).sp = s.sp := rfl
@[simp] theorem State.setPc_dt (w : Word) : (s.setPc w).dt = s.dt := rfl
@[simp] theorem State.setPc_st (w : Word) : (s.setPc w).st = s.st := rfl
@[simp] theorem State.setPc_fb (w : Word) : (s.setPc w).fb = s.fb := rfl
@[simp] theorem State.setPc_keys (w : Word) : (s.setPc w).keys = s.keys := rfl
@[simp] theorem State.setPc_mem (w : Word) : (s.setPc w).mem = s.mem := rfl
@[simp] theorem State.setPc_waitActive (w : Word) : (s.setPc w).waitActive = s.waitActive := rfl
@[simp] theorem State.setPc_waitX (w : Word) : (s.setPc w).waitX = s.waitX := rfl
@[simp] theorem State.setPc_waitSnap (w : Word) : (s.setPc w).waitSnap = s.waitSnap := rfl
@[simp] theorem State.setPc_rngBytes (w : Word) : (s.setPc w).rngBytes = s.rngBytes := rfl
@[simp] theorem State.setPc_rngDrawn (w : Word) : (s.setPc w).rngDrawn = s.rngDrawn := rfl
@[simp] theorem State.setPc_effect (w : Word) : (s.setPc w).effect = s.effect := rfl

/-! `setI` -/

@[simp] theorem State.setI_cfg (w : Word) : (s.setI w).cfg = s.cfg := rfl
@[simp] theorem State.setI_v (w : Word) : (s.setI w).v = s.v := rfl
@[simp] theorem State.setI_i (w : Word) : (s.setI w).i = w := rfl
@[simp] theorem State.setI_pc (w : Word) : (s.setI w).pc = s.pc := rfl
@[simp] theorem State.setI_stack (w : Word) : (s.setI w).stack = s.stack := rfl
@[simp] theorem State.setI_sp (w : Word) : (s.setI w).sp = s.sp := rfl
@[simp] theorem State.setI_dt (w : Word) : (s.setI w).dt = s.dt := rfl
@[simp] theorem State.setI_st (w : Word) : (s.setI w).st = s.st := rfl
@[simp] theorem State.setI_fb (w : Word) : (s.setI w).fb = s.fb := rfl
@[simp] theorem State.setI_keys (w : Word) : (s.setI w).keys = s.keys := rfl
@[simp] theorem State.setI_mem (w : Word) : (s.setI w).mem = s.mem := rfl
@[simp] theorem State.setI_waitActive (w : Word) : (s.setI w).waitActive = s.waitActive := rfl
@[simp] theorem State.setI_waitX (w : Word) : (s.setI w).waitX = s.waitX := rfl
@[simp] theorem State.setI_waitSnap (w : Word) : (s.setI w).waitSnap = s.waitSnap := rfl
@[simp] theorem State.setI_rngBytes (w : Word) : (s.setI w).rngBytes = s.rngBytes := rfl
@[simp] theorem State.setI_rngDrawn (w : Word) : (s.setI w).rngDrawn = s.rngDrawn := rfl
@[simp] theorem State.setI_effect (w : Word) : (s.setI w).effect = s.effect := rfl

/-! `setDt` -/

@[simp] theorem State.setDt_cfg (b : Byte) : (s.setDt b).cfg = s.cfg := rfl
@[simp] theorem State.setDt_v (b : Byte) : (s.setDt b).v = s.v := rfl
@[simp] theorem State.setDt_i (b : Byte) : (s.setDt b).i = s.i := rfl
@[simp] theorem State.setDt_pc (b : Byte) : (s.setDt b).pc = s.pc := rfl
@[simp] theorem State.setDt_stack (b : Byte) : (s.setDt b).stack = s.stack := rfl
@[simp] theorem State.setDt_sp (b : Byte) : (s.setDt b).sp = s.sp := rfl
@[simp] theorem State.setDt_dt (b : Byte) : (s.setDt b).dt = b := rfl
@[simp] theorem State.setDt_st (b : Byte) : (s.setDt b).st = s.st := rfl
@[simp] theorem State.setDt_fb (b : Byte) : (s.setDt b).fb = s.fb := rfl
@[simp] theorem State.setDt_keys (b : Byte) : (s.setDt b).keys = s.keys := rfl
@[simp] theorem State.setDt_mem (b : Byte) : (s.setDt b).mem = s.mem := rfl
@[simp] theorem State.setDt_waitActive (b : Byte) : (s.setDt b).waitActive = s.waitActive := rfl
@[simp] theorem State.setDt_waitX (b : Byte) : (s.setDt b).waitX = s.waitX := rfl
@[simp] theorem State.setDt_waitSnap (b : Byte) : (s.setDt b).waitSnap = s.waitSnap := rfl
@[simp] theorem State.setDt_rngBytes (b : Byte) : (s.setDt b).rngBytes = s.rngBytes := rfl
@[simp] theorem State.setDt_rngDrawn (b : Byte) : (s.setDt b).rngDrawn = s.rngDrawn := rfl
@[simp] theorem State.setDt_effect (b : Byte) : (s.setDt b).effect = s.effect := rfl

/-! `setSt` -/

@[simp] theorem State.setSt_cfg (b : Byte) : (s.setSt b).cfg = s.cfg := rfl
@[simp] theorem State.setSt_v (b : Byte) : (s.setSt b).v = s.v := rfl
@[simp] theorem State.setSt_i (b : Byte) : (s.setSt b).i = s.i := rfl
@[simp] theorem State.setSt_pc (b : Byte) : (s.setSt b).pc = s.pc := rfl
@[simp] theorem State.setSt_stack (b : Byte) : (s.setSt b).stack = s.stack := rfl
@[simp] theorem State.setSt_sp (b : Byte) : (s.setSt b).sp = s.sp := rfl
@[simp] theorem State.setSt_dt (b : Byte) : (s.setSt b).dt = s.dt := rfl
@[simp] theorem State.setSt_st (b : Byte) : (s.setSt b).st = b := rfl
@[simp] theorem State.setSt_fb (b : Byte) : (s.setSt b).fb = s.fb := rfl
@[simp] theorem State.setSt_keys (b : Byte) : (s.setSt b).keys = s.keys := rfl
@[simp] theorem State.setSt_mem (b : Byte) : (s.setSt b).mem = s.mem := rfl
@[simp] theorem State.setSt_waitActive (b : Byte) : (s.setSt b).waitActive = s.waitActive := rfl
@[simp] theorem State.setSt_waitX (b : Byte) : (s.setSt b).waitX = s.waitX := rfl
@[simp] theorem State.setSt_waitSnap (b : Byte) : (s.setSt b).waitSnap = s.waitSnap := rfl
@[simp] theorem State.setSt_rngBytes (b : Byte) : (s.setSt b).rngBytes = s.rngBytes := rfl
@[simp] theorem State.setSt_rngDrawn (b : Byte) : (s.setSt b).rngDrawn = s.rngDrawn := rfl
@[simp] theorem State.setSt_effect (b : Byte) : (s.setSt b).effect = s.effect := rfl

/-! `setFb` -/

@[simp] theorem State.setFb_cfg (f : Framebuffer) : (s.setFb f).cfg = s.cfg := rfl
@[simp] theorem State.setFb_v (f : Framebuffer) : (s.setFb f).v = s.v := rfl
@[simp] theorem State.setFb_i (f : Framebuffer) : (s.setFb f).i = s.i := rfl
@[simp] theorem State.setFb_pc (f : Framebuffer) : (s.setFb f).pc = s.pc := rfl
@[simp] theorem State.setFb_stack (f : Framebuffer) : (s.setFb f).stack = s.stack := rfl
@[simp] theorem State.setFb_sp (f : Framebuffer) : (s.setFb f).sp = s.sp := rfl
@[simp] theorem State.setFb_dt (f : Framebuffer) : (s.setFb f).dt = s.dt := rfl
@[simp] theorem State.setFb_st (f : Framebuffer) : (s.setFb f).st = s.st := rfl
@[simp] theorem State.setFb_fb (f : Framebuffer) : (s.setFb f).fb = f := rfl
@[simp] theorem State.setFb_keys (f : Framebuffer) : (s.setFb f).keys = s.keys := rfl
@[simp] theorem State.setFb_mem (f : Framebuffer) : (s.setFb f).mem = s.mem := rfl
@[simp] theorem State.setFb_waitActive (f : Framebuffer) : (s.setFb f).waitActive = s.waitActive := rfl
@[simp] theorem State.setFb_waitX (f : Framebuffer) : (s.setFb f).waitX = s.waitX := rfl
@[simp] theorem State.setFb_waitSnap (f : Framebuffer) : (s.setFb f).waitSnap = s.waitSnap := rfl
@[simp] theorem State.setFb_rngBytes (f : Framebuffer) : (s.setFb f).rngBytes = s.rngBytes := rfl
@[simp] theorem State.setFb_rngDrawn (f : Framebuffer) : (s.setFb f).rngDrawn = s.rngDrawn := rfl
@[simp] theorem State.setFb_effect (f : Framebuffer) : (s.setFb f).effect = s.effect := rfl

/-! `setKeys` -/

@[simp] theorem State.setKeys_cfg (k : BitVec 16) : (s.setKeys k).cfg = s.cfg := rfl
@[simp] theorem State.setKeys_v (k : BitVec 16) : (s.setKeys k).v = s.v := rfl
@[simp] theorem State.setKeys_i (k : BitVec 16) : (s.setKeys k).i = s.i := rfl
@[simp] theorem State.setKeys_pc (k : BitVec 16) : (s.setKeys k).pc = s.pc := rfl
@[simp] theorem State.setKeys_stack (k : BitVec 16) : (s.setKeys k).stack = s.stack := rfl
@[simp] theorem State.setKeys_sp (k : BitVec 16) : (s.setKeys k).sp = s.sp := rfl
@[simp] theorem State.setKeys_dt (k : BitVec 16) : (s.setKeys k).dt = s.dt := rfl
@[simp] theorem State.setKeys_st (k : BitVec 16) : (s.setKeys k).st = s.st := rfl
@[simp] theorem State.setKeys_fb (k : BitVec 16) : (s.setKeys k).fb = s.fb := rfl
@[simp] theorem State.setKeys_keys (k : BitVec 16) : (s.setKeys k).keys = k := rfl
@[simp] theorem State.setKeys_mem (k : BitVec 16) : (s.setKeys k).mem = s.mem := rfl
@[simp] theorem State.setKeys_waitActive (k : BitVec 16) : (s.setKeys k).waitActive = s.waitActive := rfl
@[simp] theorem State.setKeys_waitX (k : BitVec 16) : (s.setKeys k).waitX = s.waitX := rfl
@[simp] theorem State.setKeys_waitSnap (k : BitVec 16) : (s.setKeys k).waitSnap = s.waitSnap := rfl
@[simp] theorem State.setKeys_rngBytes (k : BitVec 16) : (s.setKeys k).rngBytes = s.rngBytes := rfl
@[simp] theorem State.setKeys_rngDrawn (k : BitVec 16) : (s.setKeys k).rngDrawn = s.rngDrawn := rfl
@[simp] theorem State.setKeys_effect (k : BitVec 16) : (s.setKeys k).effect = s.effect := rfl

/-! `setMem` -/

@[simp] theorem State.setMem_cfg (m : Memory) : (s.setMem m).cfg = s.cfg := rfl
@[simp] theorem State.setMem_v (m : Memory) : (s.setMem m).v = s.v := rfl
@[simp] theorem State.setMem_i (m : Memory) : (s.setMem m).i = s.i := rfl
@[simp] theorem State.setMem_pc (m : Memory) : (s.setMem m).pc = s.pc := rfl
@[simp] theorem State.setMem_stack (m : Memory) : (s.setMem m).stack = s.stack := rfl
@[simp] theorem State.setMem_sp (m : Memory) : (s.setMem m).sp = s.sp := rfl
@[simp] theorem State.setMem_dt (m : Memory) : (s.setMem m).dt = s.dt := rfl
@[simp] theorem State.setMem_st (m : Memory) : (s.setMem m).st = s.st := rfl
@[simp] theorem State.setMem_fb (m : Memory) : (s.setMem m).fb = s.fb := rfl
@[simp] theorem State.setMem_keys (m : Memory) : (s.setMem m).keys = s.keys := rfl
@[simp] theorem State.setMem_mem (m : Memory) : (s.setMem m).mem = m := rfl
@[simp] theorem State.setMem_waitActive (m : Memory) : (s.setMem m).waitActive = s.waitActive := rfl
@[simp] theorem State.setMem_waitX (m : Memory) : (s.setMem m).waitX = s.waitX := rfl
@[simp] theorem State.setMem_waitSnap (m : Memory) : (s.setMem m).waitSnap = s.waitSnap := rfl
@[simp] theorem State.setMem_rngBytes (m : Memory) : (s.setMem m).rngBytes = s.rngBytes := rfl
@[simp] theorem State.setMem_rngDrawn (m : Memory) : (s.setMem m).rngDrawn = s.rngDrawn := rfl
@[simp] theorem State.setMem_effect (m : Memory) : (s.setMem m).effect = s.effect := rfl

/-! `setStack` -/

@[simp] theorem State.setStack_cfg (st : Vector Word 16) (sp : Fin 17) : (s.setStack st sp).cfg = s.cfg := rfl
@[simp] theorem State.setStack_v (st : Vector Word 16) (sp : Fin 17) : (s.setStack st sp).v = s.v := rfl
@[simp] theorem State.setStack_i (st : Vector Word 16) (sp : Fin 17) : (s.setStack st sp).i = s.i := rfl
@[simp] theorem State.setStack_pc (st : Vector Word 16) (sp : Fin 17) : (s.setStack st sp).pc = s.pc := rfl
@[simp] theorem State.setStack_stack (st : Vector Word 16) (sp : Fin 17) : (s.setStack st sp).stack = st := rfl
@[simp] theorem State.setStack_sp (st : Vector Word 16) (sp : Fin 17) : (s.setStack st sp).sp = sp := rfl
@[simp] theorem State.setStack_dt (st : Vector Word 16) (sp : Fin 17) : (s.setStack st sp).dt = s.dt := rfl
@[simp] theorem State.setStack_st (st : Vector Word 16) (sp : Fin 17) : (s.setStack st sp).st = s.st := rfl
@[simp] theorem State.setStack_fb (st : Vector Word 16) (sp : Fin 17) : (s.setStack st sp).fb = s.fb := rfl
@[simp] theorem State.setStack_keys (st : Vector Word 16) (sp : Fin 17) : (s.setStack st sp).keys = s.keys := rfl
@[simp] theorem State.setStack_mem (st : Vector Word 16) (sp : Fin 17) : (s.setStack st sp).mem = s.mem := rfl
@[simp] theorem State.setStack_waitActive (st : Vector Word 16) (sp : Fin 17) : (s.setStack st sp).waitActive = s.waitActive := rfl
@[simp] theorem State.setStack_waitX (st : Vector Word 16) (sp : Fin 17) : (s.setStack st sp).waitX = s.waitX := rfl
@[simp] theorem State.setStack_waitSnap (st : Vector Word 16) (sp : Fin 17) : (s.setStack st sp).waitSnap = s.waitSnap := rfl
@[simp] theorem State.setStack_rngBytes (st : Vector Word 16) (sp : Fin 17) : (s.setStack st sp).rngBytes = s.rngBytes := rfl
@[simp] theorem State.setStack_rngDrawn (st : Vector Word 16) (sp : Fin 17) : (s.setStack st sp).rngDrawn = s.rngDrawn := rfl
@[simp] theorem State.setStack_effect (st : Vector Word 16) (sp : Fin 17) : (s.setStack st sp).effect = s.effect := rfl

/-! `setWait` -/

@[simp] theorem State.setWait_cfg (a : Bool) (x : Reg) (n : BitVec 16) : (s.setWait a x n).cfg = s.cfg := rfl
@[simp] theorem State.setWait_v (a : Bool) (x : Reg) (n : BitVec 16) : (s.setWait a x n).v = s.v := rfl
@[simp] theorem State.setWait_i (a : Bool) (x : Reg) (n : BitVec 16) : (s.setWait a x n).i = s.i := rfl
@[simp] theorem State.setWait_pc (a : Bool) (x : Reg) (n : BitVec 16) : (s.setWait a x n).pc = s.pc := rfl
@[simp] theorem State.setWait_stack (a : Bool) (x : Reg) (n : BitVec 16) : (s.setWait a x n).stack = s.stack := rfl
@[simp] theorem State.setWait_sp (a : Bool) (x : Reg) (n : BitVec 16) : (s.setWait a x n).sp = s.sp := rfl
@[simp] theorem State.setWait_dt (a : Bool) (x : Reg) (n : BitVec 16) : (s.setWait a x n).dt = s.dt := rfl
@[simp] theorem State.setWait_st (a : Bool) (x : Reg) (n : BitVec 16) : (s.setWait a x n).st = s.st := rfl
@[simp] theorem State.setWait_fb (a : Bool) (x : Reg) (n : BitVec 16) : (s.setWait a x n).fb = s.fb := rfl
@[simp] theorem State.setWait_keys (a : Bool) (x : Reg) (n : BitVec 16) : (s.setWait a x n).keys = s.keys := rfl
@[simp] theorem State.setWait_mem (a : Bool) (x : Reg) (n : BitVec 16) : (s.setWait a x n).mem = s.mem := rfl
@[simp] theorem State.setWait_waitActive (a : Bool) (x : Reg) (n : BitVec 16) : (s.setWait a x n).waitActive = a := rfl
@[simp] theorem State.setWait_waitX (a : Bool) (x : Reg) (n : BitVec 16) : (s.setWait a x n).waitX = x := rfl
@[simp] theorem State.setWait_waitSnap (a : Bool) (x : Reg) (n : BitVec 16) : (s.setWait a x n).waitSnap = n := rfl
@[simp] theorem State.setWait_rngBytes (a : Bool) (x : Reg) (n : BitVec 16) : (s.setWait a x n).rngBytes = s.rngBytes := rfl
@[simp] theorem State.setWait_rngDrawn (a : Bool) (x : Reg) (n : BitVec 16) : (s.setWait a x n).rngDrawn = s.rngDrawn := rfl
@[simp] theorem State.setWait_effect (a : Bool) (x : Reg) (n : BitVec 16) : (s.setWait a x n).effect = s.effect := rfl

/-! `setRng` -/

@[simp] theorem State.setRng_cfg (bs : List Byte) (d : Nat) : (s.setRng bs d).cfg = s.cfg := rfl
@[simp] theorem State.setRng_v (bs : List Byte) (d : Nat) : (s.setRng bs d).v = s.v := rfl
@[simp] theorem State.setRng_i (bs : List Byte) (d : Nat) : (s.setRng bs d).i = s.i := rfl
@[simp] theorem State.setRng_pc (bs : List Byte) (d : Nat) : (s.setRng bs d).pc = s.pc := rfl
@[simp] theorem State.setRng_stack (bs : List Byte) (d : Nat) : (s.setRng bs d).stack = s.stack := rfl
@[simp] theorem State.setRng_sp (bs : List Byte) (d : Nat) : (s.setRng bs d).sp = s.sp := rfl
@[simp] theorem State.setRng_dt (bs : List Byte) (d : Nat) : (s.setRng bs d).dt = s.dt := rfl
@[simp] theorem State.setRng_st (bs : List Byte) (d : Nat) : (s.setRng bs d).st = s.st := rfl
@[simp] theorem State.setRng_fb (bs : List Byte) (d : Nat) : (s.setRng bs d).fb = s.fb := rfl
@[simp] theorem State.setRng_keys (bs : List Byte) (d : Nat) : (s.setRng bs d).keys = s.keys := rfl
@[simp] theorem State.setRng_mem (bs : List Byte) (d : Nat) : (s.setRng bs d).mem = s.mem := rfl
@[simp] theorem State.setRng_waitActive (bs : List Byte) (d : Nat) : (s.setRng bs d).waitActive = s.waitActive := rfl
@[simp] theorem State.setRng_waitX (bs : List Byte) (d : Nat) : (s.setRng bs d).waitX = s.waitX := rfl
@[simp] theorem State.setRng_waitSnap (bs : List Byte) (d : Nat) : (s.setRng bs d).waitSnap = s.waitSnap := rfl
@[simp] theorem State.setRng_rngBytes (bs : List Byte) (d : Nat) : (s.setRng bs d).rngBytes = bs := rfl
@[simp] theorem State.setRng_rngDrawn (bs : List Byte) (d : Nat) : (s.setRng bs d).rngDrawn = d := rfl
@[simp] theorem State.setRng_effect (bs : List Byte) (d : Nat) : (s.setRng bs d).effect = s.effect := rfl

/-! `setEffect` -/

@[simp] theorem State.setEffect_cfg (e : StepEffect) : (s.setEffect e).cfg = s.cfg := rfl
@[simp] theorem State.setEffect_v (e : StepEffect) : (s.setEffect e).v = s.v := rfl
@[simp] theorem State.setEffect_i (e : StepEffect) : (s.setEffect e).i = s.i := rfl
@[simp] theorem State.setEffect_pc (e : StepEffect) : (s.setEffect e).pc = s.pc := rfl
@[simp] theorem State.setEffect_stack (e : StepEffect) : (s.setEffect e).stack = s.stack := rfl
@[simp] theorem State.setEffect_sp (e : StepEffect) : (s.setEffect e).sp = s.sp := rfl
@[simp] theorem State.setEffect_dt (e : StepEffect) : (s.setEffect e).dt = s.dt := rfl
@[simp] theorem State.setEffect_st (e : StepEffect) : (s.setEffect e).st = s.st := rfl
@[simp] theorem State.setEffect_fb (e : StepEffect) : (s.setEffect e).fb = s.fb := rfl
@[simp] theorem State.setEffect_keys (e : StepEffect) : (s.setEffect e).keys = s.keys := rfl
@[simp] theorem State.setEffect_mem (e : StepEffect) : (s.setEffect e).mem = s.mem := rfl
@[simp] theorem State.setEffect_waitActive (e : StepEffect) : (s.setEffect e).waitActive = s.waitActive := rfl
@[simp] theorem State.setEffect_waitX (e : StepEffect) : (s.setEffect e).waitX = s.waitX := rfl
@[simp] theorem State.setEffect_waitSnap (e : StepEffect) : (s.setEffect e).waitSnap = s.waitSnap := rfl
@[simp] theorem State.setEffect_rngBytes (e : StepEffect) : (s.setEffect e).rngBytes = s.rngBytes := rfl
@[simp] theorem State.setEffect_rngDrawn (e : StepEffect) : (s.setEffect e).rngDrawn = s.rngDrawn := rfl
@[simp] theorem State.setEffect_effect (e : StepEffect) : (s.setEffect e).effect = e := rfl

end Sys2Proof.Machine
end

