-- ==== Sys2Proof/Laws/Ops.lean ====
section
/-! SUPPORT. What each shared operation can do, said once: registers, errors, the stack controller, data addresses,
memory through the state, fetch. -/

namespace Sys2Proof.Machine

variable (s : State)

/-! ## Registers -/

@[simp] theorem State.getV_setV_same (r : Reg) (b : Byte) : (s.setV r b).getV r = b := by
  simp [State.getV]

theorem State.getV_setV_ne {r k : Reg} (b : Byte) (h : k ≠ r) : (s.setV r b).getV k = s.getV k := by
  have hv : r.val ≠ k.val := fun e => h (Fin.ext e.symm)
  simp [State.getV, Vector.getElem_set_ne, hv]

theorem State.getV_setV (r k : Reg) (b : Byte) : (s.setV r b).getV k = if k = r then b else s.getV k := by
  split
  · subst_vars; exact State.getV_setV_same s _ b
  · exact State.getV_setV_ne s b ‹_›

@[simp] theorem State.getV_setPc (w : Word) (k : Reg) : (s.setPc w).getV k = s.getV k := rfl
@[simp] theorem State.getV_setI (w : Word) (k : Reg) : (s.setI w).getV k = s.getV k := rfl
@[simp] theorem State.getV_setDt (b : Byte) (k : Reg) : (s.setDt b).getV k = s.getV k := rfl
@[simp] theorem State.getV_setSt (b : Byte) (k : Reg) : (s.setSt b).getV k = s.getV k := rfl
@[simp] theorem State.getV_setFb (f : Framebuffer) (k : Reg) : (s.setFb f).getV k = s.getV k := rfl
@[simp] theorem State.getV_setKeys (n : BitVec 16) (k : Reg) : (s.setKeys n).getV k = s.getV k := rfl
@[simp] theorem State.getV_setMem (m : Memory) (k : Reg) : (s.setMem m).getV k = s.getV k := rfl
@[simp] theorem State.getV_setRng (bs : List Byte) (d : Nat) (k : Reg) : (s.setRng bs d).getV k = s.getV k := rfl
@[simp] theorem State.getV_setEffect (e : StepEffect) (k : Reg) : (s.setEffect e).getV k = s.getV k := rfl
@[simp] theorem State.getV_setStack (a : Vector Word 16) (p : Fin 17) (k : Reg) :
    (s.setStack a p).getV k = s.getV k := rfl
@[simp] theorem State.getV_setWait (a : Bool) (x : Reg) (n : BitVec 16) (k : Reg) :
    (s.setWait a x n).getV k = s.getV k := rfl

/-- A result with its flag: VF holds the flag whichever register the result names (R65). -/
theorem State.getV_setResultFlag (x k : Reg) (r : Byte) (f : Bool) :
    (s.setResultFlag x r f).getV k = if k = regVF then flagByte f else if k = x then r else s.getV k := by
  simp only [State.setResultFlag, State.setFlag, State.getV_setV]

/-- Writing a result with its flag changes the register file only. -/
theorem State.setResultFlag_eq (x : Reg) (r : Byte) (f : Bool) :
    s.setResultFlag x r f = s.setRegs (s.setResultFlag x r f).v := rfl

/-! ## Loading a block of registers (R83) -/

theorem regsLoaded_getElem (v : Vector Byte 16) (k : Nat) (bytes : List Byte) (j : Nat) (hj : j < 16) :
    (regsLoaded v k bytes)[j] =
      if h : k ≤ j ∧ j - k < bytes.length then bytes[j - k]'h.2 else v[j] := by
  induction bytes generalizing v k with
  | nil => simp [regsLoaded]
  | cons b rest ih =>
    simp only [regsLoaded]
    split
    · rw [ih]
      by_cases hkj : k = j
      · subst hkj
        simp
      · by_cases hlt : k < j
        · have e : j - k = (j - (k + 1)) + 1 := by omega
          simp only [e, List.getElem_cons_succ, List.length_cons]
          by_cases hin : j - (k + 1) < rest.length
          · simp [hin, show k + 1 ≤ j from hlt, hlt.le]
          · simp [hin, Vector.getElem_set_ne, hkj]
        · simp [show ¬k + 1 ≤ j by omega, show ¬k ≤ j by omega, Vector.getElem_set_ne, hkj]
    · rename_i hk
      simp [show ¬k ≤ j by omega]

/-! ## Raising and going on -/

@[simp] theorem orRaise_ok {α : Type} (a : α) (k : α → Result) : orRaise (.ok a) k = k a := rfl

@[simp] theorem orRaise_error {α : Type} (f : Fault) (k : α → Result) : orRaise (.error f) k = .fault f := rfl

theorem orRaise_eq_next {α : Type} {r : Except Fault α} {k : α → Result} {t : State} (h : orRaise r k = .next t) :
    ∃ a, r = .ok a ∧ k a = .next t := by
  cases r with
  | ok a => exact ⟨a, rfl, h⟩
  | error f => simp at h

theorem orRaise_eq_fault {α : Type} {r : Except Fault α} {k : α → Result} {f : Fault} (h : orRaise r k = .fault f) :
    r = .error f ∨ ∃ a, r = .ok a ∧ k a = .fault f := by
  cases r with
  | ok a => exact .inr ⟨a, rfl, h⟩
  | error g =>
    simp only [orRaise_error, Host.Outcome.fault.injEq] at h
    exact .inl (by rw [h])

theorem orRaise_eq_refused {α : Type} {r : Except Fault α} {k : α → Result} {x : Refusal}
    (h : orRaise r k = .refused x) : ∃ a, r = .ok a ∧ k a = .refused x := by
  cases r with
  | ok a => exact ⟨a, rfl, h⟩
  | error f => simp at h

@[simp] theorem State.settle_next (t : State) : s.settle (.next t) = t := rfl
@[simp] theorem State.settle_fault (f : Fault) : s.settle (.fault f) = s := rfl
@[simp] theorem State.settle_refused (r : Refusal) : s.settle (.refused r) = s := rfl

/-! ## Stack controller (R15, R16) -/

theorem State.pushPc_cases :
    (∃ h : s.sp.val < 16,
      s.pushPc = .ok (s.setStack (s.stack.set s.sp.val s.pc h) ⟨s.sp.val + 1, by omega⟩)) ∨
    (s.sp.val = 16 ∧ s.pushPc = .error .stackOverflow) := by
  by_cases h : s.sp.val < 16
  · exact .inl ⟨h, by simp [State.pushPc, h]⟩
  · exact .inr ⟨by omega, by simp [State.pushPc, h]⟩

theorem State.popPc_cases :
    (∃ h : 0 < s.sp.val,
      s.popPc = .ok ((s.setStack s.stack ⟨s.sp.val - 1, by omega⟩).setPc (s.stack[s.sp.val - 1]'(by omega)))) ∨
    (s.sp.val = 0 ∧ s.popPc = .error .stackUnderflow) := by
  by_cases h : 0 < s.sp.val
  · exact .inl ⟨h, by simp [State.popPc, h]⟩
  · exact .inr ⟨by omega, by simp [State.popPc, h]⟩

/-! ## Data addresses (R33) -/

theorem effAddr_cases (p : DataAddrPolicy) (a : Nat) :
    (a ≤ 0xFFF ∧ effAddr p a = .ok a) ∨
    (0xFFF < a ∧ p = .mask ∧ effAddr p a = .ok (a % 4096)) ∨
    (0xFFF < a ∧ p = .reject ∧ effAddr p a = .error (.addressOutOfRange a)) := by
  by_cases h : a ≤ 0xFFF
  · exact .inl ⟨h, by simp [effAddr, h]⟩
  · cases p
    · exact .inr (.inr ⟨by omega, rfl, by simp [effAddr, h]⟩)
    · exact .inr (.inl ⟨by omega, rfl, by simp [effAddr, h, memSize]⟩)

/-- An effective address is its data address modulo 4096, and lies in memory. -/
theorem effAddr_ok {p : DataAddrPolicy} {a b : Nat} (h : effAddr p a = .ok b) : b = a % 4096 ∧ b < memSize := by
  rcases effAddr_cases p a with ⟨hle, e⟩ | ⟨-, -, e⟩ | ⟨-, -, e⟩ <;> rw [e] at h
  · cases h; exact ⟨by omega, by simp [memSize]; omega⟩
  · cases h; exact ⟨rfl, by simp [memSize]; omega⟩
  · cases h

/-- All data addresses effective: their list is the sums modulo 4096, in order. -/
theorem effAddrs_ok {p : DataAddrPolicy} {base n : Nat} {as : List Nat} (h : effAddrs p base n = .ok as) :
    as = (List.range' base n).map (· % 4096) := by
  induction n generalizing base as with
  | zero => cases h; rfl
  | succ n ih =>
    simp only [effAddrs] at h
    split at h
    · cases h
    · rename_i a ha
      split at h
      · cases h
      · rename_i rest hr
        cases h
        rw [List.range'_succ, List.map_cons, (effAddr_ok ha).1, ih hr]

/-- When the data addresses of an access are effective: always under `mask`, and inside memory under `reject`. -/
theorem effAddrs_of_inside {p : DataAddrPolicy} {base n : Nat} (h : p = .mask ∨ base + n ≤ 4096) :
    effAddrs p base n = .ok ((List.range' base n).map (· % 4096)) := by
  induction n generalizing base with
  | zero => rfl
  | succ n ih =>
    have ht := ih (base := base + 1) (h.imp_right fun e => by omega)
    rcases effAddr_cases p base with ⟨hle, e⟩ | ⟨-, -, e⟩ | ⟨hgt, hp, -⟩
    · simp [effAddrs, e, ht, List.range'_succ, Nat.mod_eq_of_lt (show base < 4096 by omega)]
    · simp [effAddrs, e, ht, List.range'_succ]
    · subst hp
      rcases h with h | h
      · cases h
      · omega

/-- Under `reject` an access that leaves memory fails at its lowest address above 0xFFF (R33, R99). -/
theorem effAddrs_outside {base n : Nat} (hn : 0 < n) (h : 4096 < base + n) :
    effAddrs .reject base n = .error (.addressOutOfRange (max base 4096)) := by
  induction n generalizing base with
  | zero => omega
  | succ n ih =>
    rcases effAddr_cases .reject base with ⟨hle, e⟩ | ⟨-, hp, -⟩ | ⟨hgt, -, e⟩
    · have hm : max (base + 1) 4096 = max base 4096 := by omega
      simp [effAddrs, e, ih (base := base + 1) (by omega) (by omega), hm]
    · cases hp
    · have hm : max base 4096 = base := by omega
      simp [effAddrs, e, hm]

/-- Every effective address of an access lies in memory. -/
theorem effAddrs_inside {p : DataAddrPolicy} {base n : Nat} {as : List Nat} (h : effAddrs p base n = .ok as) :
    ∀ a ∈ as, a < memSize := by
  intro a ha
  rw [effAddrs_ok h] at ha
  obtain ⟨b, -, rfl⟩ := List.mem_map.mp ha
  simp [memSize]; omega

theorem effAddrs_length {p : DataAddrPolicy} {base n : Nat} {as : List Nat} (h : effAddrs p base n = .ok as) :
    as.length = n := by
  simp [effAddrs_ok h]

/-- Fewer than 4096 consecutive data addresses have effective addresses that all differ. -/
theorem effAddrs_nodup {p : DataAddrPolicy} {base n : Nat} {as : List Nat} (hn : n ≤ 4096)
    (h : effAddrs p base n = .ok as) : as.Nodup := by
  rw [effAddrs_ok h]
  refine List.Nodup.map_on ?_ List.nodup_range'
  intro x hx y hy hxy
  simp only [List.mem_range'_1] at hx hy
  omega

/-! ## Memory through the state -/

@[simp] theorem State.readMem_setV (r : Reg) (b : Byte) (a : Nat) : (s.setV r b).readMem a = s.readMem a := rfl
@[simp] theorem State.readMem_setRegs (v : Vector Byte 16) (a : Nat) : (s.setRegs v).readMem a = s.readMem a := rfl
@[simp] theorem State.readMem_setPc (w : Word) (a : Nat) : (s.setPc w).readMem a = s.readMem a := rfl
@[simp] theorem State.readMem_setI (w : Word) (a : Nat) : (s.setI w).readMem a = s.readMem a := rfl
@[simp] theorem State.readMem_setDt (b : Byte) (a : Nat) : (s.setDt b).readMem a = s.readMem a := rfl
@[simp] theorem State.readMem_setSt (b : Byte) (a : Nat) : (s.setSt b).readMem a = s.readMem a := rfl
@[simp] theorem State.readMem_setFb (f : Framebuffer) (a : Nat) : (s.setFb f).readMem a = s.readMem a := rfl
@[simp] theorem State.readMem_setKeys (k : BitVec 16) (a : Nat) : (s.setKeys k).readMem a = s.readMem a := rfl
@[simp] theorem State.readMem_setEffect (e : StepEffect) (a : Nat) : (s.setEffect e).readMem a = s.readMem a := rfl
@[simp] theorem State.readMem_setRng (bs : List Byte) (d : Nat) (a : Nat) :
    (s.setRng bs d).readMem a = s.readMem a := rfl
@[simp] theorem State.readMem_setStack (st : Vector Word 16) (p : Fin 17) (a : Nat) :
    (s.setStack st p).readMem a = s.readMem a := rfl
@[simp] theorem State.readMem_setWait (b : Bool) (x : Reg) (n : BitVec 16) (a : Nat) :
    (s.setWait b x n).readMem a = s.readMem a := rfl

theorem State.readMem_writeMem_same (a : Nat) (b : Byte) (hm : Memory.wf s.cfg s.mem = true) :
    (s.writeMem a b).readMem a = b := Memory.read_write_same s.cfg a b hm

theorem State.readMem_writeMem_ne {a a' : Nat} (b : Byte) (h : a' ≠ a) :
    (s.writeMem a b).readMem a' = s.readMem a' := Memory.read_write_ne s.cfg s.mem b h

theorem State.wf_writeMem {a : Nat} (b : Byte) (hm : Memory.wf s.cfg s.mem = true) (ha : a < memSize) :
    Memory.wf (s.writeMem a b).cfg (s.writeMem a b).mem = true := Memory.wf_write s.cfg b hm ha

theorem State.readMem_writeCells_ne (cells : List Host.Cell) {a : Nat} (h : ∀ e ∈ cells, e.1 ≠ a) :
    (s.writeCells cells).readMem a = s.readMem a := Memory.read_writeAll_ne s.cfg s.mem cells h

theorem State.readMem_writeCells_mem (cells : List Host.Cell) {a : Nat} {b : Byte}
    (hm : Memory.wf s.cfg s.mem = true) (hin : ∀ e ∈ cells, e.1 < memSize) (hd : (cells.map Prod.fst).Nodup)
    (h : (a, b) ∈ cells) : (s.writeCells cells).readMem a = b := Memory.read_writeAll_mem s.cfg cells hm hin hd h

theorem State.wf_writeCells (cells : List Host.Cell) (hm : Memory.wf s.cfg s.mem = true)
    (h : ∀ e ∈ cells, e.1 < memSize) :
    Memory.wf (s.writeCells cells).cfg (s.writeCells cells).mem = true := Memory.wf_writeAll s.cfg cells hm h

/-! ## Consecutive cells -/

theorem cellsFrom_map_fst (a : Nat) (bytes : List Byte) : (cellsFrom a bytes).map Prod.fst = List.range' a bytes.length := by
  induction bytes generalizing a with
  | nil => rfl
  | cons b rest ih => simp [cellsFrom, ih, List.range'_succ]

theorem cellsFrom_mem (a : Nat) (bytes : List Byte) (j : Nat) (hj : j < bytes.length) :
    (a + j, bytes[j]) ∈ cellsFrom a bytes := by
  induction bytes generalizing a j with
  | nil => simp at hj
  | cons b rest ih =>
    cases j with
    | zero => simp [cellsFrom]
    | succ j =>
      have := ih (a + 1) j (by simpa using hj)
      simp only [cellsFrom, List.getElem_cons_succ, List.mem_cons]
      exact .inr (by rwa [show a + (j + 1) = a + 1 + j by omega])

/-! ## Fetch (R51) -/

theorem State.fetch_cases :
    (s.pc.toNat ≤ 0xFFE ∧
      s.fetch = .ok (Word.ofBytes (s.readMem s.pc.toNat) (s.readMem (s.pc.toNat + 1)))) ∨
    (0xFFE < s.pc.toNat ∧ s.fetch = .error (.addressOutOfRange s.pc.toNat)) := by
  by_cases h : s.pc.toNat + 1 > 0xFFF
  · exact .inr ⟨by omega, by simp [State.fetch, h]⟩
  · exact .inl ⟨by omega, by simp [State.fetch, h]⟩

end Sys2Proof.Machine
end

