-- ==== Sys2Proof/Laws/PerInstr.lean ====
section
/-! SUPPORT. The family TablePattern: the word of a well-formed instruction carries the fixed bits of its row of
spec/opcode_table.json (its "match" under its "mask"). One lemma per constructor of Instr. -/

namespace Sys2Proof.Laws.TablePattern

/-- The encoded word matches the instruction's row of the opcode table. -/
def Statement (i : Instr) : Prop := i.wf = true → encode i &&& i.row.mask = i.row.pattern

/-! The formats with operands: the fixed bits survive the mask, the operand bits do not. -/

theorem addr (f : BitVec 4) (a : Addr12) : wordAddr f a &&& 0xF000#16 = wordAddr f 0 := by
  apply BitVec.eq_of_getLsbD_eq
  intro i hi
  rw [BitVec.getLsbD_and, getLsbD_wordAddr, getLsbD_wordAddr]
  interval_cases i <;> simp

theorem regByte (f : BitVec 4) (x : Reg) (k : Byte) : wordRegByte f x k &&& 0xF000#16 = wordAddr f 0 := by
  apply BitVec.eq_of_getLsbD_eq
  intro i hi
  rw [BitVec.getLsbD_and, getLsbD_wordRegByte, getLsbD_wordAddr]
  interval_cases i <;> simp

theorem reg (f : BitVec 4) (x : Reg) (k : Byte) : wordRegByte f x k &&& 0xF0FF#16 = wordRegByte f 0 k := by
  apply BitVec.eq_of_getLsbD_eq
  intro i hi
  rw [BitVec.getLsbD_and, getLsbD_wordRegByte, getLsbD_wordRegByte]
  interval_cases i <;> simp

theorem regReg (f : BitVec 4) (x y : Reg) (n : BitVec 4) :
    wordRegReg f x y n &&& 0xF00F#16 = wordRegReg f 0 0 n := by
  apply BitVec.eq_of_getLsbD_eq
  intro i hi
  rw [BitVec.getLsbD_and, getLsbD_wordRegReg, getLsbD_wordRegReg]
  interval_cases i <;> simp

theorem draw (f : BitVec 4) (x y : Reg) (n : BitVec 4) : wordRegReg f x y n &&& 0xF000#16 = wordAddr f 0 := by
  apply BitVec.eq_of_getLsbD_eq
  intro i hi
  rw [BitVec.getLsbD_and, getLsbD_wordRegReg, getLsbD_wordAddr]
  interval_cases i <;> simp

/-! One lemma per constructor. -/

theorem cls : Statement (.cls) := fun _ => by decide
theorem ret : Statement (.ret) := fun _ => by decide
theorem jp (nnn : Addr12) : Statement (.jp nnn) := fun _ => addr _ _
theorem call (nnn : Addr12) : Statement (.call nnn) := fun _ => addr _ _
theorem seImm (x : Reg) (nn : Byte) : Statement (.seImm x nn) := fun _ => regByte _ _ _
theorem sneImm (x : Reg) (nn : Byte) : Statement (.sneImm x nn) := fun _ => regByte _ _ _
theorem seReg (x y : Reg) : Statement (.seReg x y) := fun _ => regReg _ _ _ _
theorem ldImm (x : Reg) (nn : Byte) : Statement (.ldImm x nn) := fun _ => regByte _ _ _
theorem addImm (x : Reg) (nn : Byte) : Statement (.addImm x nn) := fun _ => regByte _ _ _
theorem ldReg (x y : Reg) : Statement (.ldReg x y) := fun _ => regReg _ _ _ _
theorem orReg (x y : Reg) : Statement (.orReg x y) := fun _ => regReg _ _ _ _
theorem andReg (x y : Reg) : Statement (.andReg x y) := fun _ => regReg _ _ _ _
theorem xorReg (x y : Reg) : Statement (.xorReg x y) := fun _ => regReg _ _ _ _
theorem addReg (x y : Reg) : Statement (.addReg x y) := fun _ => regReg _ _ _ _
theorem subReg (x y : Reg) : Statement (.subReg x y) := fun _ => regReg _ _ _ _
theorem shr (x y : Reg) : Statement (.shr x y) := fun _ => regReg _ _ _ _
theorem subn (x y : Reg) : Statement (.subn x y) := fun _ => regReg _ _ _ _
theorem shl (x y : Reg) : Statement (.shl x y) := fun _ => regReg _ _ _ _
theorem sneReg (x y : Reg) : Statement (.sneReg x y) := fun _ => regReg _ _ _ _
theorem ldI (nnn : Addr12) : Statement (.ldI nnn) := fun _ => addr _ _
theorem jpV0 (nnn : Addr12) : Statement (.jpV0 nnn) := fun _ => addr _ _
theorem rnd (x : Reg) (nn : Byte) : Statement (.rnd x nn) := fun _ => regByte _ _ _
theorem drw (x y : Reg) (n : Nat) : Statement (.drw x y n) := fun _ => draw _ _ _ _
theorem skp (x : Reg) : Statement (.skp x) := fun _ => reg _ _ _
theorem sknp (x : Reg) : Statement (.sknp x) := fun _ => reg _ _ _
theorem ldVxDt (x : Reg) : Statement (.ldVxDt x) := fun _ => reg _ _ _
theorem ldVxK (x : Reg) : Statement (.ldVxK x) := fun _ => reg _ _ _
theorem ldDtVx (x : Reg) : Statement (.ldDtVx x) := fun _ => reg _ _ _
theorem ldStVx (x : Reg) : Statement (.ldStVx x) := fun _ => reg _ _ _
theorem addIVx (x : Reg) : Statement (.addIVx x) := fun _ => reg _ _ _
theorem ldFVx (x : Reg) : Statement (.ldFVx x) := fun _ => reg _ _ _
theorem ldBVx (x : Reg) : Statement (.ldBVx x) := fun _ => reg _ _ _
theorem ldMemVx (x : Reg) : Statement (.ldMemVx x) := fun _ => reg _ _ _
theorem ldVxMem (x : Reg) : Statement (.ldVxMem x) := fun _ => reg _ _ _

end Sys2Proof.Laws.TablePattern
end

