-- ==== Sys2Proof/Laws/Run.lean ====
section
/-! SUPPORT. Runs of transactions: how one is split, when a step of it fails, and where it ends in error (R110). -/

namespace Sys2Proof.Machine

variable {s : State} {f : Fault}

theorem drive_append (s : State) (xs ys : List Transaction) : drive s (xs ++ ys) = drive (drive s xs) ys := by
  induction xs generalizing s with
  | nil => rfl
  | cons x xs ih => exact ih _

/-- Only a step fails as a step. -/
theorem stepError_eq_some {x : Transaction} : stepError s x = some f ↔ x = .step ∧ step s = .fault f := by
  cases x <;> simp [stepError]
  split <;> simp_all

/-- A step that fails leaves the state it was requested in and returns the error (R98). -/
theorem transact_step_eq_error : transact s .step = (s, .error f) ↔ step s = .fault f := by
  constructor
  · intro h
    cases hs : step s <;> simp [transact, hs, respond, State.settle] at h ⊢
    exact h
  · intro h
    simp [transact, h, respond, State.settle]

@[simp] theorem firstStepError_nil (s : State) : firstStepError s [] = none := rfl

/-- A run ends at a step that fails. -/
theorem firstStepError_cons_some {x : Transaction} {xs : List Transaction} (h : stepError s x = some f) :
    firstStepError s (x :: xs) = some (s, f) := by
  simp [firstStepError, h]

/-- A run goes on past a transaction that is no failing step. -/
theorem firstStepError_cons_none {x : Transaction} {xs : List Transaction} (h : stepError s x = none) :
    firstStepError s (x :: xs) = firstStepError (transact s x).1 xs := by
  simp [firstStepError, h]

end Sys2Proof.Machine
end

