-- ==== Sys2Proof/Laws/Step.lean ====
section
/-! SUPPORT. What a step can do, said once: every later proof about a step splits on these cases. -/

namespace Sys2Proof.Machine

variable {s t : State}

/-- A step that completes either waits (R93) or executes the instruction at PC (R50). -/
theorem step_next_cases (h : step s = .next t) :
    (s.waitActive = true ∧ t = s.clearEffect.waitStep) ∨
    (s.waitActive = false ∧ s.pc.toNat ≤ 0xFFE ∧
      ∃ i, decodeWord (Word.ofBytes (s.readMem s.pc.toNat) (s.readMem (s.pc.toNat + 1))) = some i ∧
        exec i s.clearEffect.advancePc = .next t) := by
  unfold step State.stepCycle at h
  split at h
  · rename_i hw
    cases h
    exact .inl ⟨hw, rfl⟩
  · rename_i hw
    obtain ⟨op, hf, h1⟩ := orRaise_eq_next h
    obtain ⟨i, hd, h2⟩ := orRaise_eq_next h1
    rcases s.clearEffect.fetch_cases with ⟨hpc, e⟩ | ⟨-, e⟩ <;> rw [e] at hf
    · cases hf
      refine .inr ⟨by simpa using hw, hpc, i, ?_, h2⟩
      simp only [decodeOrError] at hd
      split at hd
      · rename_i j hj
        cases hd
        exact hj
      · cases hd
    · cases hf

/-- What a waiting step can leave (R93): still waiting, with the releases remembered, or the least newly pressed key
stored and the wait left. -/
theorem State.waitStep_cases (s : State) :
    (leastKey s.newlyPressed = none ∧ s.waitStep = (s.setWait true s.waitX s.keys).reportHalted) ∨
    (∃ k, leastKey s.newlyPressed = some k ∧
      s.waitStep = (s.setV s.waitX (BitVec.ofNat 8 k.val)).setWait false s.waitX s.waitSnap) := by
  unfold State.waitStep
  split
  · exact .inl ⟨‹_›, rfl⟩
  · exact .inr ⟨_, ‹_›, rfl⟩

/-- A least key is in the set, and no lower key is. -/
theorem leastKey_some {ks : BitVec 16} {k : Key} (h : leastKey ks = some k) :
    ks.getLsbD k.val = true ∧ ∀ j : Key, j.val < k.val → ks.getLsbD j.val = false := by
  obtain ⟨hk, l₁, l₂, hsplit, hbefore⟩ := List.find?_eq_some_iff_append.mp h
  refine ⟨hk, fun j hj => ?_⟩
  have hsorted : (l₁ ++ k :: l₂).Pairwise (· < ·) := hsplit ▸ List.pairwise_lt_finRange 16
  have hmem : j ∈ l₁ ++ k :: l₂ := hsplit ▸ List.mem_finRange j
  rcases List.mem_append.mp hmem with h1 | h1
  · simpa using hbefore j h1
  · rcases List.mem_cons.mp h1 with h2 | h2
    · exact absurd (congrArg Fin.val h2) (by omega)
    · have := Fin.lt_def.mp ((List.pairwise_cons.mp (List.pairwise_append.mp hsorted).2.1).1 j h2)
      omega

/-- No least key: the set is empty. -/
theorem leastKey_none {ks : BitVec 16} (h : leastKey ks = none) (k : Key) : ks.getLsbD k.val = false := by
  have := List.find?_eq_none.mp h k (List.mem_finRange k)
  simpa using this

end Sys2Proof.Machine
end

