-- ==== Sys2Proof/Tests/Slice0.lean ====
section
/-! SUPPORT. The model's own tests. Expected results are those of 95_test_vectors.md (the vector is named at each
test) or of the encoding strings of opcode_table.json; the witnesses show a state that meets a statement's hypotheses. -/

namespace Sys2Proof.Tests

open Sys2Proof Sys2Proof.Machine

/-! ## Helpers -/

/-- The reset state with one instruction word at 0x200. -/
def boot (op : Nat) : State := State.reset.withFetchWord 16 op

/-- A step completes, and the state it leaves passes the test. -/
def after (s : State) (p : State → Bool) : Bool :=
  match step s with
  | .next t => p t
  | _       => false

/-- The error a result raises, if it raises one. -/
def faultOf : Result → Option Fault
  | .fault f => some f
  | _        => none

/-- The next state of a result, if it has one. -/
def nextOf : Result → Option State
  | .next t => some t
  | _       => none

/-- The error a step raises, if it raises one. -/
def errorOf (s : State) : Option Fault := faultOf (step s)

/-- A step's outputs are redraw and halted as given. -/
def outputs (t : State) (r h : Bool) : Bool := decide (t.effect = ⟨r, h⟩)

/-- Another DATA_ADDR_POLICY, SHIFT_SOURCE or JUMP_BASE than the default. -/
def masked (s : State) : State := { s with cfg := { s.cfg with dataAddrPolicy := .mask } }
def shiftsVy (s : State) : State := { s with cfg := { s.cfg with shiftSource := .vy } }
def jumpsVx (s : State) : State := { s with cfg := { s.cfg with jumpBase := .vx } }

/-! ## Well-formedness: the one check refuses an ill-formed term -/

theorem test_wf_refuses_sixteen_rows : (Instr.drw 0 1 16).wf = false := by decide
theorem test_wf_admits_fifteen_rows : (Instr.drw 0 1 15).wf = true := by decide

/-! ## Decoding: a word of each row of the opcode table, written from its encoding string -/

theorem test_decode_cls : decodeTableWord 16 0x00E0 = some (.cls) := by decide
theorem test_decode_ret : decodeTableWord 16 0x00EE = some (.ret) := by decide
theorem test_decode_jp : decodeTableWord 16 0x1234 = some (.jp 0x234) := by decide
theorem test_decode_call : decodeTableWord 16 0x2300 = some (.call 0x300) := by decide
theorem test_decode_seImm : decodeTableWord 16 0x3312 = some (.seImm 3 0x12) := by decide
theorem test_decode_sneImm : decodeTableWord 16 0x4313 = some (.sneImm 3 0x13) := by decide
theorem test_decode_seReg : decodeTableWord 16 0x5120 = some (.seReg 1 2) := by decide
theorem test_decode_ldImm : decodeTableWord 16 0x6A42 = some (.ldImm 0xA 0x42) := by decide
theorem test_decode_addImm : decodeTableWord 16 0x70FF = some (.addImm 0 0xFF) := by decide
theorem test_decode_ldReg : decodeTableWord 16 0x8120 = some (.ldReg 1 2) := by decide
theorem test_decode_orReg : decodeTableWord 16 0x8121 = some (.orReg 1 2) := by decide
theorem test_decode_andReg : decodeTableWord 16 0x8122 = some (.andReg 1 2) := by decide
theorem test_decode_xorReg : decodeTableWord 16 0x8123 = some (.xorReg 1 2) := by decide
theorem test_decode_addReg : decodeTableWord 16 0x8124 = some (.addReg 1 2) := by decide
theorem test_decode_subReg : decodeTableWord 16 0x8125 = some (.subReg 1 2) := by decide
theorem test_decode_shr : decodeTableWord 16 0x8126 = some (.shr 1 2) := by decide
theorem test_decode_subn : decodeTableWord 16 0x8127 = some (.subn 1 2) := by decide
theorem test_decode_shl : decodeTableWord 16 0x812E = some (.shl 1 2) := by decide
theorem test_decode_sneReg : decodeTableWord 16 0x9120 = some (.sneReg 1 2) := by decide
theorem test_decode_ldI : decodeTableWord 16 0xA300 = some (.ldI 0x300) := by decide
theorem test_decode_jpV0 : decodeTableWord 16 0xB234 = some (.jpV0 0x234) := by decide
theorem test_decode_rnd : decodeTableWord 16 0xC30F = some (.rnd 3 0x0F) := by decide
theorem test_decode_drw : decodeTableWord 16 0xD01F = some (.drw 0 1 15) := by decide
theorem test_decode_skp : decodeTableWord 16 0xE19E = some (.skp 1) := by decide
theorem test_decode_sknp : decodeTableWord 16 0xE1A1 = some (.sknp 1) := by decide
theorem test_decode_ldVxDt : decodeTableWord 16 0xF507 = some (.ldVxDt 5) := by decide
theorem test_decode_ldVxK : decodeTableWord 16 0xF30A = some (.ldVxK 3) := by decide
theorem test_decode_ldDtVx : decodeTableWord 16 0xF515 = some (.ldDtVx 5) := by decide
theorem test_decode_ldStVx : decodeTableWord 16 0xF518 = some (.ldStVx 5) := by decide
theorem test_decode_addIVx : decodeTableWord 16 0xF21E = some (.addIVx 2) := by decide
theorem test_decode_ldFVx : decodeTableWord 16 0xF229 = some (.ldFVx 2) := by decide
theorem test_decode_ldBVx : decodeTableWord 16 0xF333 = some (.ldBVx 3) := by decide
theorem test_decode_ldMemVx : decodeTableWord 16 0xF155 = some (.ldMemVx 1) := by decide
theorem test_decode_ldVxMem : decodeTableWord 16 0xF265 = some (.ldVxMem 2) := by decide

/-! Words that spell no instruction (vectors F4 to F16), and short byte sequences. -/

theorem test_decode_family0_whole_word : decodeWord 0x01E0 = none ∧ decodeWord 0x00E1 = none := by decide
theorem test_decode_low_nibble : decodeWord 0x5121 = none ∧ decodeWord 0x9121 = none := by decide
theorem test_decode_family8_holes : decodeWord 0x8008 = none ∧ decodeWord 0x800F = none := by decide
theorem test_decode_familyEF_holes : decodeWord 0xE19F = none ∧ decodeWord 0xF066 = none := by decide
theorem test_decode_one_byte : decode [0x12] = .error (.truncated 1) := by decide

/-! ## Fetch and the step cycle -/

-- F1, S12
theorem test_fetch_at_fff : errorOf (State.reset.setPc 0xFFF) = some (.addressOutOfRange 0xFFF) := by decide
-- F18
theorem test_step_without_image : errorOf State.reset = some (.unknownOpcode 0x0000) := by decide
-- F8
theorem test_unknown_opcode : errorOf (boot 0x5121) = some (.unknownOpcode 0x5121) := by decide
-- F2
theorem test_fetch_at_ffe :
    after ((State.reset.setPc 0xFFE).withFetchWord 16 0x6001) (fun t => t.getV 0 == 1 && t.pc == 0x1000) = true := by
  decide
-- R27, R115: glyph A lies at 0x082, and memory around the font is 0
theorem test_reset_font : (State.reset.readMem 0x082, State.reset.readMem 0x09F, State.reset.readMem 0x0A0,
    State.reset.readMem 0x04F) = (0xF0, 0x80, 0, 0) := by decide
theorem test_reset_pc : State.reset.pc = 0x200 := by decide

/-! ## Control transfer -/

-- J1
theorem test_ret : after ((boot 0x00EE).setStack (State.reset.stack.set 0 0x206) 1)
    (fun t => t.pc == 0x206 && t.sp == 0 && t.stack[0] == 0x206) = true := by decide
-- J2
theorem test_ret_empty : errorOf (boot 0x00EE) = some .stackUnderflow := by decide
-- J3, J4
theorem test_jp : after (boot 0x1234) (fun t => t.pc == 0x234) = true := by decide
theorem test_jp_odd : after (boot 0x1201) (fun t => t.pc == 0x201) = true := by decide
-- J5
theorem test_call : after (boot 0x2300) (fun t => t.pc == 0x300 && t.sp == 1 && t.stack[0] == 0x202) = true := by decide
-- J6
theorem test_call_full : errorOf ((boot 0x2300).setStack State.reset.stack 16) = some .stackOverflow := by decide
-- J8, J9
theorem test_se_imm_taken : after ((boot 0x3312).setV 3 0x12) (fun t => t.pc == 0x204) = true := by decide
theorem test_se_imm_not : after ((boot 0x3313).setV 3 0x12) (fun t => t.pc == 0x202) = true := by decide
-- J10, J11
theorem test_sne_imm_not : after ((boot 0x4312).setV 3 0x12) (fun t => t.pc == 0x202) = true := by decide
theorem test_sne_imm_taken : after ((boot 0x4313).setV 3 0x12) (fun t => t.pc == 0x204) = true := by decide
-- J13, J14
theorem test_se_reg_taken : after (((boot 0x5120).setV 1 7).setV 2 7) (fun t => t.pc == 0x204) = true := by decide
theorem test_se_reg_not : after (((boot 0x5120).setV 1 7).setV 2 8) (fun t => t.pc == 0x202) = true := by decide
-- J16, J18
theorem test_sne_reg_taken : after (((boot 0x9120).setV 1 7).setV 2 8) (fun t => t.pc == 0x204) = true := by decide
theorem test_sne_reg_same : after (boot 0x9110) (fun t => t.pc == 0x202) = true := by decide
-- J21, J23
theorem test_jp_v0_no_wrap : after ((boot 0xBFFF).setV 0 0xFF) (fun t => t.pc == 0x10FE) = true := by decide
theorem test_jp_vx : after (jumpsVx (((boot 0xB234).setV 0 1).setV 2 0x20)) (fun t => t.pc == 0x254) = true := by decide

/-! ## ALU -/

-- A1, S1
theorem test_ld_imm : after (boot 0x6A42) (fun t => t.getV 0xA == 0x42 && t.pc == 0x202) = true := by decide
-- A3
theorem test_add_imm_wraps : after (((boot 0x7001).setV 0 0xFF).setV 15 0x55)
    (fun t => t.getV 0 == 0 && t.getV 15 == 0x55) = true := by decide
-- A4
theorem test_ld_reg : after ((boot 0x8120).setV 2 9) (fun t => t.getV 1 == 9) = true := by decide
-- A5, A6, A7
theorem test_or : after ((((boot 0x8121).setV 1 0x0F).setV 2 0xF0).setV 15 0x55)
    (fun t => t.getV 1 == 0xFF && t.getV 15 == 0x55) = true := by decide
theorem test_and : after ((((boot 0x8122).setV 1 0x3C).setV 2 0x0F).setV 15 0x55)
    (fun t => t.getV 1 == 0x0C && t.getV 15 == 0x55) = true := by decide
theorem test_xor : after ((((boot 0x8123).setV 1 0x3C).setV 2 0x0F).setV 15 0x55)
    (fun t => t.getV 1 == 0x33 && t.getV 15 == 0x55) = true := by decide
-- S2, A11
theorem test_add_carry : after (((boot 0x8124).setV 1 250).setV 2 10)
    (fun t => t.getV 1 == 4 && t.getV 15 == 1) = true := by decide
theorem test_add_into_vf : after (((boot 0x8F14).setV 15 200).setV 1 100) (fun t => t.getV 15 == 1) = true := by decide
-- S4, A13
theorem test_sub_borrow : after (((boot 0x8125).setV 1 5).setV 2 10)
    (fun t => t.getV 1 == 251 && t.getV 15 == 0) = true := by decide
theorem test_sub_equal : after (((boot 0x8125).setV 1 7).setV 2 7)
    (fun t => t.getV 1 == 0 && t.getV 15 == 1) = true := by decide
-- A15, A16
theorem test_subn : after (((boot 0x8127).setV 1 5).setV 2 10)
    (fun t => t.getV 1 == 5 && t.getV 15 == 1) = true := by decide
theorem test_subn_borrow : after (((boot 0x8127).setV 1 10).setV 2 5)
    (fun t => t.getV 1 == 251 && t.getV 15 == 0) = true := by decide
-- A18, A21
theorem test_shr_vf : after ((boot 0x8F06).setV 15 0x03) (fun t => t.getV 15 == 1) = true := by decide
theorem test_shr_vy : after (shiftsVy (((boot 0x8126).setV 1 0xFF).setV 2 0x04))
    (fun t => t.getV 1 == 0x02 && t.getV 2 == 0x04 && t.getV 15 == 0) = true := by decide
-- A19, A22
theorem test_shl : after ((boot 0x810E).setV 1 0x81) (fun t => t.getV 1 == 0x02 && t.getV 15 == 1) = true := by decide
theorem test_shl_vy : after (shiftsVy ((boot 0x812E).setV 2 0x81))
    (fun t => t.getV 1 == 0x02 && t.getV 15 == 1) = true := by decide
-- A24, A25
theorem test_rnd : after ((boot 0xC30F).setRng [0xA7] 0)
    (fun t => t.getV 3 == 0x07 && t.rngDrawn == 1 && t.rngBytes == []) = true := by decide
theorem test_rnd_zero_mask_draws : after (((boot 0xC300).setRng [0xA7] 0).setV 3 9)
    (fun t => t.getV 3 == 0x00 && t.rngDrawn == 1) = true := by decide

/-! ## Address register and memory -/

-- M1
theorem test_ld_i : after (boot 0xA300) (fun t => t.i == 0x300) = true := by decide
-- M3, M4
theorem test_add_i_wraps : after ((((boot 0xF21E).setI 0xFFFF).setV 2 1).setV 15 0x55)
    (fun t => t.i == 0 && t.getV 15 == 0x55) = true := by decide
theorem test_add_i_past_fff : after ((((boot 0xF21E).setI 0x0FFF).setV 2 1).setV 15 0x55)
    (fun t => t.i == 0x1000 && t.getV 15 == 0x55) = true := by decide
-- M5
theorem test_ld_f : after ((boot 0xF229).setV 2 0x0A) (fun t => t.i == 0x082) = true := by decide
theorem test_ld_f_unmasked : after ((boot 0xF229).setV 2 0xFF) (fun t => t.i == 0x54B) = true := by decide
-- S10, M8
theorem test_ld_b : after (((boot 0xF333).setI 0x300).setV 3 214)
    (fun t => t.readMem 0x300 == 2 && t.readMem 0x301 == 1 && t.readMem 0x302 == 4 && t.i == 0x300) = true := by decide
theorem test_ld_b_masked : after (masked (((boot 0xF333).setI 0xFFE).setV 3 123))
    (fun t => t.readMem 0xFFE == 1 && t.readMem 0xFFF == 2 && t.readMem 0x000 == 3) = true := by decide
-- M7
theorem test_ld_b_rejected : errorOf (((boot 0xF333).setI 0xFFE).setV 3 123) = some (.addressOutOfRange 0x1000) := by
  decide
-- M9
theorem test_ld_mem : after ((((boot 0xF155).setI 0x300).setV 0 1).setV 1 2)
    (fun t => t.readMem 0x300 == 1 && t.readMem 0x301 == 2 && t.readMem 0x302 == 0 && t.i == 0x300) = true := by decide
-- M11
theorem test_ld_mem_rejected : errorOf ((boot 0xFF55).setI 0xFF8) = some (.addressOutOfRange 0x1000) := by decide
-- M13, M15
theorem test_ld_vx_mem : after ((((boot 0xF265).setI 0x300).writeCells [(0x300, 2), (0x301, 1), (0x302, 4)]))
    (fun t => t.getV 0 == 2 && t.getV 1 == 1 && t.getV 2 == 4 && t.i == 0x300) = true := by decide
theorem test_ld_vx_mem_top : after (((boot 0xF065).setI 0xFFF).writeMem 0xFFF 0x77)
    (fun t => t.getV 0 == 0x77) = true := by decide

/-! ## Display -/

-- S6, D9, D10
theorem test_cls : after ((boot 0x00E0).setFb (flipPixel blankScreen 3 4))
    (fun t => decide (t.fb = blankScreen) && outputs t true false) = true := by decide
-- D1
theorem test_drw_wraps_columns : after ((((boot 0xD011).setI 0x300).setV 0 60).writeMem 0x300 0xFF)
    (fun t => t.fb[0] == 0xF00000000000000F#64 && t.getV 15 == 0 && outputs t true false) = true := by decide
-- D2
theorem test_drw_wraps_lines : after ((((boot 0xD015).setI 0x300).setV 1 30).writeCells
      [(0x300, 0x80), (0x301, 0x80), (0x302, 0x80), (0x303, 0x80), (0x304, 0x80)])
    (fun t => decide (t.fb.toList = [1, 1, 1] ++ List.replicate 27 0#64 ++ [1, 1])) = true := by decide

/-! ## Timers, keypad, the key wait -/

-- T1, T2, T3
theorem test_ld_vx_dt : after ((boot 0xF507).setDt 0x3C) (fun t => t.getV 5 == 0x3C) = true := by decide
theorem test_ld_dt_vx : after ((boot 0xF515).setV 5 0x3C) (fun t => t.dt == 0x3C && t.st == 0) = true := by decide
theorem test_ld_st_vx : after ((boot 0xF518).setV 5 2) (fun t => t.st == 2 && t.dt == 0) = true := by decide
-- T4
theorem test_tick_no_underflow : ((State.reset.setDt 1).tickTimers.dt, (State.reset.setDt 1).tickTimers.st) = (0, 0) := by
  decide
-- K1, K3
theorem test_skp : after (((boot 0xE19E).setV 1 0xA).setKeys 0x0400) (fun t => t.pc == 0x204) = true := by decide
theorem test_skp_above_15 : after (((boot 0xE19E).setV 1 0x1A).setKeys 0x0400) (fun t => t.pc == 0x202) = true := by decide
-- K5, K6
theorem test_sknp_pressed : after (((boot 0xE1A1).setV 1 0xA).setKeys 0x0400) (fun t => t.pc == 0x202) = true := by decide
theorem test_sknp_above_15 : after (((boot 0xE1A1).setV 1 0x10).setKeys 1) (fun t => t.pc == 0x204) = true := by decide
-- W1, first step
theorem test_ld_vx_k_suspends : after (boot 0xF30A)
    (fun t => t.waitActive && t.waitX == 3 && t.pc == 0x202 && outputs t false true) = true := by decide
-- W2: a key held when FX0A ran does not end the wait
theorem test_wait_held_key : after ((State.reset.setWait true 3 0x20).setKeys 0x20)
    (fun t => t.waitActive && outputs t false true) = true := by decide
-- W3: the lowest newly pressed key, into VF
theorem test_wait_lowest_key : after ((State.reset.setWait true 15 0).setKeys 0x1010)
    (fun t => t.getV 15 == 4 && !t.waitActive && t.pc == 0x200 && outputs t false false) = true := by decide

/-! ## Host transactions -/

theorem test_set_key_refused : (transact State.reset (.setKey 16 true)).2 = .refused (.keySymbolOutOfRange 16) := by
  decide
theorem test_read_port : ((transact ((boot 0x00E0).setDt 7) (.read .dt)).2,
    (transact State.reset (.read .pc)).2) = (.value [7], .value [0x200]) := by decide
theorem test_load_places_image : ((drive State.reset [.load [0x12, 0x34]]).readMem 0x201,
    (drive State.reset [.load [0x12, 0x34], .load [0x56]]).readMem 0x201) = (0x34, 0x34) := by decide

/-! ## Witnesses: a state and operands that meet the hypotheses of a statement, one for each clause, at the edges -/

/-- A full stack whose entries are all the same return address. -/
def fullStack : Vector Word 16 := Vector.replicate 16 0x0FFE

/-- The reset state about to run a CALL at the last address a word can be fetched at. -/
def callAtTop : State := (State.reset.setPc 0xFFE).withFetchWord 16 0x2300

/-- The reset state suspended in an FX0A for V3, with the keys of the snapshot and the keys now. -/
def waiting (snap keys : BitVec 16) : State := (State.reset.setWait true 3 snap).setKeys keys

-- ConstructedStatesMeetInvariant, EveryStepKeepsInvariant, EveryTransactionKeepsInvariant
theorem witness_inv_reset : State.reset.Inv := ⟨by decide, by decide, by decide⟩
theorem witness_inv_step : callAtTop.Inv ∧ after callAtTop (fun t => t.stack[0] == 0x1000) = true :=
  ⟨⟨by decide, by decide, by decide⟩, by decide⟩
theorem witness_inv_pc_top : (State.reset.setPc 0x10FE).Inv := ⟨by decide, by decide, by decide⟩

-- ReachablePcNeverWraps: a state reached by a load, a tick, a key and a step
theorem witness_reachable : Reachable (drive State.reset [.load [0xA3, 0x00], .tickTimers, .setKey 5 true, .step]) :=
  ⟨Config.default, [], [.load [0xA3, 0x00], .tickTimers, .setKey 5 true, .step], rfl⟩
theorem witness_reachable_moved :
    (drive State.reset [.load [0xA3, 0x00], .tickTimers, .setKey 5 true, .step]).i = 0x300 := by decide

-- CanonicalMemoryIsUnique: memory written back to its reset contents is the empty list again
theorem witness_canonical : Memory.wf Config.default [(0x300, 7)] = true ∧
    Memory.write Config.default [(0x300, 7)] 0x300 0 = [] ∧
    Memory.wf Config.default [(0x050, 0xF0)] = false ∧ Memory.wf Config.default [(0xFFF, 1)] = true := by decide

-- EffectiveAddressRejectsOrMasks: both sides of 0xFFF
theorem witness_eff_addr : effAddr .reject 0xFFF = .ok 0xFFF ∧ effAddr .reject 0x1000 = .error (.addressOutOfRange 0x1000) ∧
    effAddr .mask 0x1000 = .ok 0 ∧ effAddr .mask 0x1100E = .ok 0x00E := by decide

-- DecodeOfEncodeIsIdentity, EncodeOfDecodeIsIdentity
theorem witness_encode : (Instr.drw 15 0 15).wf = true ∧ encode (.drw 15 0 15) = 0xDF0F ∧
    decodeWord 0xDF0F = some (.drw 15 0 15) := by decide

-- StepRunsDecodedInstruction, FetchChecksRangeAndReadsBigEndian: the last address fetched at, and the first refused
theorem witness_can_fetch : callAtTop.CanFetch ∧ decodeWord callAtTop.wordAtPc = some (.call 0x300) := by decide
theorem witness_fetch_edges : (State.reset.setPc 0xFFE).pc.toNat + 1 ≤ 0xFFF ∧ (State.reset.setPc 0xFFF).pc.toNat + 1 > 0xFFF ∧
    (State.reset.setPc 0xFFF).waitActive = false := by decide

-- UnknownWordRaisesUnknownOpcode
theorem witness_unknown_word : (boot 0x0123).CanFetch ∧
    ∀ r ∈ opcodeTable, (boot 0x0123).wordAtPc &&& r.mask ≠ r.pattern := by decide

-- InstructionsRaiseExactlyTheNamedErrors: each named error, at the address it names
theorem witness_raise_stack : faultOf (exec .ret State.reset) = some .stackUnderflow ∧
    faultOf (exec (.call 0x300) (State.reset.setStack fullStack 16)) = some .stackOverflow := by decide
theorem witness_raise_address : faultOf (exec (.ldMemVx 1) (State.reset.setI 0xFFF)) = some (.addressOutOfRange 0x1000) ∧
    faultOf (exec (.ldVxMem 0) (State.reset.setI 0x1234)) = some (.addressOutOfRange 0x1234) := by decide

-- ErrorLeavesStateUnchanged
theorem witness_error : (transact State.reset .step).2 = .error (.unknownOpcode 0x0000) := by decide

-- HaltedReportedExactlyWhenSuspended, RedrawReportedExactlyByDisplayInstructions: both sides of each
theorem witness_halted : after (boot 0xF30A) (fun t => t.effect.halted) = true ∧
    after (boot 0x1200) (fun t => !t.effect.halted) = true := by decide
theorem witness_redraw : decodeWord (boot 0x00E0).wordAtPc = some .cls ∧
    after (boot 0x00E0) (fun t => t.effect.redraw) = true ∧ after (boot 0x1200) (fun t => !t.effect.redraw) = true := by
  decide

-- WaitingStepHoldsWithoutNewKey: no key, and a key that was already held
theorem witness_wait_hold : (waiting 0x20 0x20).waitActive = true ∧ ∀ k : Key,
    (waiting 0x20 0x20).keys.getLsbD k.val = true → (waiting 0x20 0x20).waitSnap.getLsbD k.val = true := by decide
-- WaitingStepStoresLowestNewKey: key 0, and key 15 below held keys only
theorem witness_wait_store : (waiting 0 1).waitActive = true ∧ (waiting 0 1).keys.getLsbD 0 = true ∧
    (waiting 0 1).waitSnap.getLsbD 0 = false ∧ (waiting 0x7FFF 0xFFFF).keys.getLsbD 15 = true ∧
    (waiting 0x7FFF 0xFFFF).waitSnap.getLsbD 15 = false ∧ ∀ j : Key, j.val < 15 →
    (waiting 0x7FFF 0xFFFF).keys.getLsbD j.val = true → (waiting 0x7FFF 0xFFFF).waitSnap.getLsbD j.val = true := by decide

-- CallPushesReturnAddressAndJumps, RetPopsReturnAddress, RetAfterCallReturnsToCaller: SP at 0, 1, 15 and 16
theorem witness_call_last_entry : (callAtTop.setStack fullStack 15).sp.val ≠ 16 ∧
    after (callAtTop.setStack fullStack 15) (fun t => t.stack[15] == 0x1000 && t.sp == 16 && t.pc == 0x300) = true := by
  decide
theorem witness_call_full : (callAtTop.setStack fullStack 16).CanFetch ∧
    decodeWord (callAtTop.setStack fullStack 16).wordAtPc = some (.call 0x300) ∧
    (callAtTop.setStack fullStack 16).sp.val = 16 := by decide
theorem witness_ret_last_entry : ((boot 0x00EE).setStack fullStack 16).sp.val ≠ 0 ∧
    after ((boot 0x00EE).setStack fullStack 16) (fun t => t.pc == 0x0FFE && t.sp == 15) = true := by decide
theorem witness_ret_empty : (boot 0x00EE).CanFetch ∧ decodeWord (boot 0x00EE).wordAtPc = some .ret ∧
    (boot 0x00EE).sp.val = 0 := by decide
theorem witness_ret_after_call : State.reset.sp.val < 16 ∧ (State.reset.setStack fullStack 15).sp.val < 16 ∧
    ((nextOf (exec (.call 0x300) State.reset)).bind fun t => (nextOf (exec .ret t)).map State.pc) = some 0x200 := by decide

-- JpV0AddsBaseRegister: both settings of JUMP_BASE
theorem witness_jump_base : State.reset.cfg.jumpBase = .v0 ∧ (jumpsVx State.reset).cfg.jumpBase = .vx ∧
    (15 : Reg).val = (0xFFF#12).toNat / 256 := by decide

-- JumpToSelfIdles: a block that runs, one that is suspended, and the last address a word lies at
theorem witness_ended : (boot 0x1200).EndedNormally ∧ (boot 0x1200).waitActive = false ∧
    ((boot 0x1200).setWait true 3 0).EndedNormally ∧
    ((State.reset.setPc 0xFFE).withFetchWord 16 0x1FFE).EndedNormally ∧ ¬ (State.reset.setPc 0xFFF).EndedNormally := by
  decide

-- RunEndsAtFirstFailingStep: no step yet, a load that fails, the first step that fails, and steps after it
theorem witness_run_error : firstStepError State.reset [] = none ∧
    firstStepError State.reset [.tickTimers, .setKey 16 true] = none ∧
    (firstStepError State.reset [.tickTimers, .step, .load [0x12, 0x00], .step]).map Prod.snd =
      some (.unknownOpcode 0x0000) ∧
    firstStepError State.reset [.load [0x12, 0x00], .step] = none := by decide
theorem witness_run_error_split : [Transaction.tickTimers, .step, .load [0x12, 0x00], .step] =
    [.tickTimers] ++ .step :: [.load [0x12, 0x00], .step] ∧
    (transact (drive State.reset [.tickTimers]) .step).2 = .error (.unknownOpcode 0x0000) := by decide

-- AddRegSumsWithCarry, SubtractionsWithNoBorrow, ShiftsMoveOneBitIntoVF: x ≠ 15, and both settings of SHIFT_SOURCE
theorem witness_flag_edges : carryFlag 255 0 = false ∧ carryFlag 255 1 = true ∧ noBorrowFlag 0 0 = true ∧
    noBorrowFlag 0 1 = false := by decide
theorem witness_shift_source : (0x81 : Nat) =
    (if (shiftsVy (State.reset.setV 2 0x81)).cfg.shiftSource = .vx then (shiftsVy (State.reset.setV 2 0x81)).getV 1
      else (shiftsVy (State.reset.setV 2 0x81)).getV 2).toNat := by decide

-- RndMasksOneDrawnByte: a known byte, and none
theorem witness_rng : (State.reset.setRng [0xA7] 0).rngBytes = 0xA7 :: [] ∧ State.reset.rngBytes = [] := by decide

-- LdFPointsAtGlyph: digit F, its last byte, a program in memory and the font not written
theorem witness_glyph : (∀ a, 0x050 ≤ a → a < 0x050 + 80 →
      ((boot 0xF229).setV 2 15).readMem a = resetByte Config.default a) ∧
    5 * (((boot 0xF229).setV 2 15).getV 2).toNat + 4 < 80 ∧ ((boot 0xF229).setV 2 15).mem ≠ [] ∧
    after ((boot 0xF229).setV 2 15) (fun t => t.readMem (t.i.toNat + 4) == 0x80) = true := by
  refine ⟨fun a hlo hhi => ?_, by decide, by decide, by decide⟩
  interval_cases a <;> decide

-- LdBStoresDecimalDigits, LdMemVxStoresRegisters, LdVxMemLoadsRegisters, DrwXorsSpriteAndReportsCollision:
-- the last I an access fits at, the next one, and any I under mask
theorem witness_data_inside : (State.reset.setI 0xFFD).DataInside 3 ∧ ¬ (State.reset.setI 0xFFE).DataInside 3 ∧
    (masked (State.reset.setI 0xFFFF)).DataInside 3 ∧ (State.reset.setI 0xFF0).DataInside 16 ∧
    ¬ (State.reset.setI 0xFF1).DataInside 16 ∧ (State.reset.setI 0x1000).DataInside 0 ∧
    Memory.wf Config.default State.reset.mem = true := by decide
theorem witness_store_runs : after (((boot 0xFF55).setI 0xFF0).setV 15 9) (fun t => t.readMem 0xFFF == 9) = true := by
  decide

-- LoadAfterStoreRestoresRegisters, StoredBytesAreFetched
theorem witness_store_fetch : Memory.wf Config.default State.reset.mem = true ∧
    ((State.reset.setI 0xFFE).setPc 0xFFE).DataInside 2 ∧
    ((State.reset.setI 0xFFE).setPc 0xFFE).i.toNat + 1 ≤ 0xFFF ∧
    (match exec (.ldMemVx 1) ((((State.reset.setI 0xFFE).setPc 0xFFE).setV 0 0x12).setV 1 0x34) with
      | .next t => decide (t.fetch = .ok 0x1234)
      | _ => false) = true := by decide

-- DrwXorsSpriteAndReportsCollision, DrwTwiceRestoresFramebuffer: a pixel the sprite covers, and one it does not
theorem witness_sprite_covers : (((State.reset.setI 0x300).setV 0 63).writeMem 0x300 0x40).SpriteCovers 0 1 1 0 0 :=
  ⟨0, 1, 0x300, by decide, by decide, rfl, by decide, by decide, by decide⟩
theorem witness_sprite_misses (px : Col) (py : Line) : ¬ State.reset.SpriteCovers 0 1 0 px py := by
  rintro ⟨r, _, _, h, _⟩
  exact absurd h (Nat.not_lt_zero r)
theorem witness_drw_twice : (0 : Reg) ≠ 15 ∧ (1 : Reg) ≠ 15 ∧ (State.reset.setI 0xFFF).DataInside 1 := by decide
-- N = 0 with I above memory under reject draws nothing and completes
theorem witness_drw_no_rows : ¬ (State.reset.setI 0x1001).DataInside 0 ∧
    (State.reset.setI 0x1001).cfg.dataAddrPolicy = .reject ∧
    after (((boot 0xD010).setI 0x1001).setV 15 1) (fun t => t.getV 15 == 0 && outputs t true false) = true := by decide

-- KeySkipsTestKeypad: key 15 pressed, key 0 released, a value that names no key
theorem witness_keys : (∃ k : Key, (((State.reset.setKeys 0x8000).setV 1 15).getV 1).toNat = k.val ∧
      ((State.reset.setKeys 0x8000).setV 1 15).keys.getLsbD k.val = true) ∧
    (¬∃ k : Key, ((State.reset.setKeys 0x8000).getV 1).toNat = k.val ∧
      (State.reset.setKeys 0x8000).keys.getLsbD k.val = true) ∧
    ¬∃ k : Key, (((State.reset.setKeys 0xFFFF).setV 1 16).getV 1).toNat = k.val ∧
      ((State.reset.setKeys 0xFFFF).setV 1 16).keys.getLsbD k.val = true := by decide

-- TicksCommuteWithOtherInstructions: an instruction, and a waiting step
theorem witness_tick_commutes : nextOf (exec (.ldI 5) State.reset) = some (State.reset.setI 5) ∧
    (∀ x, Instr.ldI 5 ≠ .ldVxDt x) ∧ (∀ x, Instr.ldI 5 ≠ .ldDtVx x) ∧ (∀ x, Instr.ldI 5 ≠ .ldStVx x) := by decide
theorem witness_tick_waiting : (waiting 0 1).waitActive = true ∧ after (waiting 0 1) (fun t => t.getV 3 == 0) = true := by
  decide

-- SetKeyWritesOneKey: the last symbol, and the first that is refused
theorem witness_set_key : (transact State.reset (.setKey 15 true)).1.keys = 0x8000 ∧
    (transact State.reset (.setKey 15 true)).2 = .done ∧
    (transact State.reset (.setKey 16 true)).2 = .refused (.keySymbolOutOfRange 16) := by decide

-- LoadCopiesImage: the longest image, and one byte more
theorem witness_load_longest : (List.replicate 3584 (0 : Byte)).length ≤ 3584 :=
  le_of_eq List.length_replicate
theorem witness_load_too_long : 3584 < (List.replicate 3585 (0 : Byte)).length := by
  rw [List.length_replicate]
  decide

-- FirstStepRunsLoadedImage
theorem witness_first_step : ([] : List Byte).length + 2 ≤ 3584 ∧ decodeWord (Word.ofBytes 0x12 0x34) = some (.jp 0x234) := by
  decide

-- OnlyNamedInstructionsWriteEachItem, OnlyControlTransferMovesPc: a next state, pc kept, skipped and jumped
theorem witness_pc_moves : nextOf (exec (.ldI 5) State.reset) = some (State.reset.setI 5) ∧
    nextOf (exec (.seImm 0 0) State.reset) = some (State.reset.setPc 0x202) ∧
    nextOf (exec (.jp 0x300) State.reset) = some (State.reset.setPc 0x300) := by decide

-- VFChangesOnlyAsFlagOrDestination: VF changed as a flag, and as a destination
theorem witness_vf_changes : nextOf (exec (.subReg 1 2) State.reset) = some (State.reset.setV 15 1) ∧
    nextOf (exec (.ldImm 15 7) State.reset) = some (State.reset.setV 15 7) ∧
    (State.reset.setV 15 1).getV 15 ≠ State.reset.getV 15 := by decide

-- OnlySetKeyChangesKeypad
theorem witness_other_transaction : ∀ k p, Transaction.tickTimers ≠ .setKey k p := by
  intro k p h
  cases h

end Sys2Proof.Tests
end

section
/-! SUPPORT. Fetch as a word of memory, and a step that fetches (30_encoding.md R50, R51). The laws of fetch and step
that a proof about any one instruction also rests on. -/

namespace Sys2Proof

/-- Big-endian, as arithmetic (R29): the first byte weighs 256. -/
theorem Word.toNat_ofBytes (hi lo : Byte) : (Word.ofBytes hi lo).toNat = hi.toNat * 256 + lo.toNat := by
  have hlo : lo.toNat < 2 ^ 8 := lo.isLt
  calc (Word.ofBytes hi lo).toNat
      = hi.toNat <<< 8 ||| lo.toNat := BitVec.toNat_append hi lo
    _ = hi.toNat <<< 8 + lo.toNat := (Nat.shiftLeft_add_eq_or_of_lt hlo hi.toNat).symm
    _ = hi.toNat * 256 + lo.toNat := by rw [Nat.shiftLeft_eq]

end Sys2Proof

namespace Sys2Proof.Machine

variable {s : State}

theorem State.fetch_eq_ok (h : s.pc.toNat ≤ 0xFFE) : s.fetch = .ok s.wordAtPc := by
  obtain ⟨-, hf⟩ | ⟨hpc, -⟩ := s.fetch_cases
  · exact hf
  · omega

theorem State.fetch_eq_error (h : 0xFFE < s.pc.toNat) : s.fetch = .error (.addressOutOfRange s.pc.toNat) := by
  obtain ⟨hpc, -⟩ | ⟨-, hf⟩ := s.fetch_cases
  · omega
  · exact hf

/-- Clearing the outputs of a step does not touch what is fetched. -/
@[simp] theorem State.fetch_clearEffect (s : State) : s.clearEffect.fetch = s.fetch := rfl

/-- A block that is not suspended goes on to fetch (R50). -/
theorem step_of_not_waiting (h : s.waitActive = false) : step s = s.clearEffect.runFetched := by
  simp [step, State.stepCycle, h]

/-- The error of a fetch is the error of the step. -/
theorem step_eq_fault_of_fetch_eq_error {f : Fault} (hw : s.waitActive = false) (hf : s.fetch = .error f) :
    step s = .fault f := by
  rw [step_of_not_waiting hw, State.runFetched, State.fetch_clearEffect, hf, orRaise_error]

end Sys2Proof.Machine
end

section
/-! PROOFS. The obligations of 30_encoding.md. -/

namespace Sys2Proof.Machine

/-- Settles O13: the two cases of R51's range check; above it the step passes the fetch's error on, within it the word
fetched is two bytes put together. -/
theorem fetchChecksRangeAndReadsBigEndian : Obligations.FetchChecksRangeAndReadsBigEndian := by
  intro s
  constructor
  · intro hout
    have hf : s.fetch = .error (.addressOutOfRange s.pc.toNat) := State.fetch_eq_error (by omega)
    exact ⟨hf, fun hw => step_eq_fault_of_fetch_eq_error hw hf⟩
  · intro hin
    exact ⟨s.wordAtPc, State.fetch_eq_ok (by omega), Word.toNat_ofBytes _ _⟩

end Sys2Proof.Machine
end

section
/-! SUPPORT. The words of the formats decode to their instructions (30_encoding.md R44, R45), and a step runs what it
decodes (R50). -/

namespace Sys2Proof

/-- Format REG_REG with its four fields put together from the left. -/
theorem append_eq_wordRegReg (f : BitVec 4) (x y : Reg) (n : BitVec 4) :
    f ++ x.bits ++ y.bits ++ n = wordRegReg f x y n :=
  BitVec.append_assoc

theorem decodeWord_jp (nnn : Addr12) : decodeWord (wordAddr 0x1#4 nnn) = some (.jp nnn) := by simp [decodeWord]

theorem decodeWord_call (nnn : Addr12) : decodeWord (wordAddr 0x2#4 nnn) = some (.call nnn) := by simp [decodeWord]

theorem decodeWord_seImm (x : Reg) (nn : Byte) : decodeWord (wordRegByte 0x3#4 x nn) = some (.seImm x nn) := by
  simp [decodeWord]

theorem decodeWord_sneImm (x : Reg) (nn : Byte) : decodeWord (wordRegByte 0x4#4 x nn) = some (.sneImm x nn) := by
  simp [decodeWord]

/-- Family 0x5 compares the low nibble too (D13). -/
theorem decodeWord_family5 (x y : Reg) (n : BitVec 4) :
    decodeWord (wordRegReg 0x5#4 x y n) = if n = 0 then some (.seReg x y) else none := by
  simp [decodeWord]

/-- Family 0x9 compares the low nibble too (D13). -/
theorem decodeWord_family9 (x y : Reg) (n : BitVec 4) :
    decodeWord (wordRegReg 0x9#4 x y n) = if n = 0 then some (.sneReg x y) else none := by
  simp [decodeWord]

end Sys2Proof

namespace Sys2Proof.Machine

variable {s : State} {i : Instr}

theorem decodeOrError_eq_ok {op : Word} (h : decodeWord op = some i) : decodeOrError op = .ok i := by
  simp [decodeOrError, h]

/-- A step that can fetch executes the instruction at PC, the outputs cleared and PC advanced (R50, R52). -/
theorem step_eq_exec (hf : s.CanFetch) (hd : decodeWord s.wordAtPc = some i) :
    step s = exec i s.clearEffect.advancePc := by
  obtain ⟨hw, hpc⟩ := hf
  rw [step_of_not_waiting hw, State.runFetched, State.fetch_clearEffect, State.fetch_eq_ok hpc, orRaise_ok,
    decodeOrError_eq_ok hd, orRaise_ok]

/-- The error of an instruction is the error of its step, which leaves the state as it was (R98). -/
theorem transact_step_of_exec_fault {f : Fault} (hf : s.CanFetch) (hd : decodeWord s.wordAtPc = some i)
    (hx : exec i s.clearEffect.advancePc = .fault f) : transact s .step = (s, .error f) :=
  transact_step_eq_error.mpr ((step_eq_exec hf hd).trans hx)

end Sys2Proof.Machine
end

section
/-! SUPPORT. What each control transfer answers (40_flow.md), one equation per case. -/

namespace Sys2Proof.Machine

variable (s : State)

/-! ## Jumps, calls and returns -/

theorem toNat_zext16 (nnn : Addr12) : (zext16 nnn).toNat = nnn.toNat :=
  BitVec.toNat_setWidth_of_le (by decide)

theorem exec_jp (nnn : Addr12) : exec (.jp nnn) s = .next (s.setPc (zext16 nnn)) := rfl

theorem exec_call (nnn : Addr12) :
    exec (.call nnn) s = orRaise s.pushPc fun t => .next (t.setPc (zext16 nnn)) := rfl

theorem exec_ret : exec .ret s = orRaise s.popPc .next := rfl

variable {s}

theorem exec_call_of_full (nnn : Addr12) (h : s.sp.val = 16) : exec (.call nnn) s = .fault .stackOverflow := by
  obtain ⟨hlt, -⟩ | ⟨-, hp⟩ := s.pushPc_cases
  · omega
  · rw [exec_call, hp, orRaise_error]

theorem exec_call_of_lt (nnn : Addr12) (h : s.sp.val < 16) :
    exec (.call nnn) s = .next
      ((s.setStack (s.stack.set s.sp.val s.pc h) ⟨s.sp.val + 1, by omega⟩).setPc (zext16 nnn)) := by
  obtain ⟨_, hp⟩ | ⟨hfull, -⟩ := s.pushPc_cases
  · rw [exec_call, hp, orRaise_ok]
  · omega

theorem exec_ret_of_empty (h : s.sp.val = 0) : exec .ret s = .fault .stackUnderflow := by
  obtain ⟨hpos, -⟩ | ⟨-, hp⟩ := s.popPc_cases
  · omega
  · rw [exec_ret, hp, orRaise_error]

theorem exec_ret_of_pos (h : 0 < s.sp.val) :
    exec .ret s = .next
      ((s.setStack s.stack ⟨s.sp.val - 1, by omega⟩).setPc (s.stack[s.sp.val - 1]'(by omega))) := by
  obtain ⟨_, hp⟩ | ⟨hempty, -⟩ := s.popPc_cases
  · rw [exec_ret, hp, orRaise_ok]
  · omega

/-! ## Skips -/

/-- A skip on a test is a skip on what the test decides (R55). -/
theorem State.skipIf_of_iff {c : Bool} {p : Prop} [Decidable p] (h : c = true ↔ p) :
    s.skipIf c = { s with pc := if p then s.pc + 2 else s.pc } := by
  simp only [State.skipIf, State.setPc, h]

theorem exec_seImm (x : Reg) (nn : Byte) :
    exec (.seImm x nn) s = .next { s with pc := if s.getV x = nn then s.pc + 2 else s.pc } :=
  congrArg Host.Outcome.next (State.skipIf_of_iff beq_iff_eq)

theorem exec_sneImm (x : Reg) (nn : Byte) :
    exec (.sneImm x nn) s = .next { s with pc := if s.getV x ≠ nn then s.pc + 2 else s.pc } :=
  congrArg Host.Outcome.next (State.skipIf_of_iff bne_iff_ne)

theorem exec_seReg (x y : Reg) :
    exec (.seReg x y) s = .next { s with pc := if s.getV x = s.getV y then s.pc + 2 else s.pc } :=
  congrArg Host.Outcome.next (State.skipIf_of_iff beq_iff_eq)

theorem exec_sneReg (x y : Reg) :
    exec (.sneReg x y) s = .next { s with pc := if s.getV x ≠ s.getV y then s.pc + 2 else s.pc } :=
  congrArg Host.Outcome.next (State.skipIf_of_iff bne_iff_ne)

end Sys2Proof.Machine
end

section
/-! PROOFS. The obligations of 40_flow.md. -/

namespace Sys2Proof.Machine

/-- Settles O23: `exec_jp`, with a zero-extended address. -/
theorem jpJumps : Obligations.JpJumps := by
  intro nnn s
  exact ⟨decodeWord_jp nnn, _, exec_jp s nnn, toNat_zext16 nnn, rfl⟩

/-- Settles O24: the two cases of SP; the push writes the one entry SP names. -/
theorem callPushesReturnAddressAndJumps : Obligations.CallPushesReturnAddressAndJumps := by
  intro nnn s
  refine ⟨decodeWord_call nnn, exec_call_of_full nnn, fun hf hd hfull => ?_, fun hroom => ?_⟩
  · exact transact_step_of_exec_fault hf hd (exec_call_of_full nnn hfull)
  · have hlt : s.sp.val < 16 := by omega
    refine ⟨_, exec_call_of_lt nnn hlt, toNat_zext16 nnn, rfl, fun j hj => ?_, rfl⟩
    simp only [State.setPc_stack, State.setStack_stack, Vector.getElem_set, eq_comm]

/-- Settles O25: the two cases of SP; the pop reads the entry below it and writes no entry. -/
theorem retPopsReturnAddress : Obligations.RetPopsReturnAddress := by
  intro s
  refine ⟨by decide, exec_ret_of_empty, fun hf hd hempty => ?_, fun hsome => ?_⟩
  · exact transact_step_of_exec_fault hf hd (exec_ret_of_empty hempty)
  · have hpos : 0 < s.sp.val := by omega
    refine ⟨_, exec_ret_of_pos hpos, Nat.sub_add_cancel hpos, fun j hj hsp => ?_, rfl⟩
    simp only [State.setPc_pc, ← hsp, Nat.add_sub_cancel]

/-- Settles O27: `skipIf` on equality and on inequality with the immediate. -/
theorem skipsOnImmediate : Obligations.SkipsOnImmediate := by
  intro x nn s
  exact ⟨decodeWord_seImm x nn, decodeWord_sneImm x nn, exec_seImm x nn, exec_sneImm x nn⟩

/-- Settles O28: families 0x5 and 0x9 decode by their low nibble; `skipIf` on equality and on inequality of the
registers. -/
theorem skipsOnRegisters : Obligations.SkipsOnRegisters := by
  intro x y s
  simp only [append_eq_wordRegReg, decodeWord_family5, decodeWord_family9]
  exact ⟨if_pos rfl, if_pos rfl, fun n hn => ⟨if_neg hn, if_neg hn⟩, exec_seReg x y, exec_sneReg x y⟩

end Sys2Proof.Machine
end

section
/-! SUPPORT. What the register instructions answer (41_alu.md): the words of families 0x6, 0x7 and 0x8, the frame of a
register write and of a result with its flag, and the arithmetic of the results and flags. -/

namespace Sys2Proof

theorem decodeWord_ldImm (x : Reg) (nn : Byte) : decodeWord (wordRegByte 0x6#4 x nn) = some (.ldImm x nn) := by
  simp [decodeWord]

theorem decodeWord_addImm (x : Reg) (nn : Byte) : decodeWord (wordRegByte 0x7#4 x nn) = some (.addImm x nn) := by
  simp [decodeWord]

theorem decodeWord_ldReg (x y : Reg) : decodeWord (wordRegReg 0x8#4 x y 0x0#4) = some (.ldReg x y) := by
  simp [decodeWord, decodeFamily8]

theorem decodeWord_addReg (x y : Reg) : decodeWord (wordRegReg 0x8#4 x y 0x4#4) = some (.addReg x y) := by
  simp [decodeWord, decodeFamily8]

theorem decodeWord_subReg (x y : Reg) : decodeWord (wordRegReg 0x8#4 x y 0x5#4) = some (.subReg x y) := by
  simp [decodeWord, decodeFamily8]

theorem decodeWord_subn (x y : Reg) : decodeWord (wordRegReg 0x8#4 x y 0x7#4) = some (.subn x y) := by
  simp [decodeWord, decodeFamily8]

/-- The difference of two bytes modulo 256, with the subtraction of naturals kept from truncating. -/
theorem Byte.toNat_sub_mod (a b : Byte) : (a - b).toNat = (a.toNat + 256 - b.toNat) % 256 := by
  have hb : b.toNat < 256 := b.isLt
  rw [BitVec.toNat_sub]
  congr 1
  omega

end Sys2Proof

namespace Sys2Proof.Machine

variable (s : State)

/-! ## The next states -/

theorem exec_ldImm (x : Reg) (nn : Byte) : exec (.ldImm x nn) s = .next (s.setV x nn) := rfl

theorem exec_addImm (x : Reg) (nn : Byte) : exec (.addImm x nn) s = .next (s.setV x (s.getV x + nn)) := rfl

theorem exec_ldReg (x y : Reg) : exec (.ldReg x y) s = .next (s.setV x (s.getV y)) := rfl

theorem exec_addReg (x y : Reg) :
    exec (.addReg x y) s =
      .next (s.setResultFlag x (s.getV x + s.getV y) (carryFlag (s.getV x) (s.getV y))) := rfl

theorem exec_subReg (x y : Reg) :
    exec (.subReg x y) s =
      .next (s.setResultFlag x (s.getV x - s.getV y) (noBorrowFlag (s.getV x) (s.getV y))) := rfl

theorem exec_subn (x y : Reg) :
    exec (.subn x y) s =
      .next (s.setResultFlag x (s.getV y - s.getV x) (noBorrowFlag (s.getV y) (s.getV x))) := rfl

/-! ## Frames -/

theorem regVF_eq : regVF = 15 := rfl

theorem onlyRegistersChange_setV (x : Reg) (b : Byte) : OnlyRegistersChange [x] s (s.setV x b) :=
  ⟨rfl, fun _ hr => State.getV_setV_ne s b (List.ne_of_not_mem_cons hr)⟩

theorem onlyRegistersChange_setResultFlag (x : Reg) (b : Byte) (f : Bool) :
    OnlyRegistersChange [x, 15] s (s.setResultFlag x b f) := by
  refine ⟨rfl, fun r hr => ?_⟩
  obtain ⟨hx, hVF⟩ : r ≠ x ∧ r ≠ 15 := by simpa using hr
  rw [State.getV_setResultFlag, regVF_eq, if_neg hVF, if_neg hx]

/-! ## A result and its flag (R65) -/

theorem State.getV_setResultFlag_result {x : Reg} (b : Byte) (f : Bool) (h : x ≠ 15) :
    (s.setResultFlag x b f).getV x = b := by
  rw [State.getV_setResultFlag, regVF_eq, if_neg h, if_pos rfl]

theorem State.getV_setResultFlag_VF (x : Reg) (b : Byte) (f : Bool) :
    (s.setResultFlag x b f).getV 15 = flagByte f := by
  rw [State.getV_setResultFlag, regVF_eq, if_pos rfl]

theorem flagByte_carryFlag (a b : Byte) :
    flagByte (carryFlag a b) = if a.toNat + b.toNat > 255 then 1 else 0 := by
  simp only [flagByte, carryFlag, decide_eq_true_eq]

theorem flagByte_noBorrowFlag (a b : Byte) :
    flagByte (noBorrowFlag a b) = if a.toNat ≥ b.toNat then 1 else 0 := by
  simp only [flagByte, noBorrowFlag, decide_eq_true_eq]

/-- A difference with its no-borrow flag, whichever register is the minuend (R73, R75). -/
theorem setResultFlag_difference (x : Reg) (a b : Byte) :
    (x ≠ 15 → ((s.setResultFlag x (a - b) (noBorrowFlag a b)).getV x).toNat = (a.toNat + 256 - b.toNat) % 256) ∧
    (s.setResultFlag x (a - b) (noBorrowFlag a b)).getV 15 = (if a.toNat ≥ b.toNat then 1 else 0) ∧
    OnlyRegistersChange [x, 15] s (s.setResultFlag x (a - b) (noBorrowFlag a b)) := by
  refine ⟨fun hx => ?_, ?_, onlyRegistersChange_setResultFlag s x _ _⟩
  · rw [State.getV_setResultFlag_result s _ _ hx, Byte.toNat_sub_mod]
  · rw [State.getV_setResultFlag_VF, flagByte_noBorrowFlag]

end Sys2Proof.Machine
end

section
/-! PROOFS. The obligations of 41_alu.md. -/

namespace Sys2Proof.Machine

/-- Settles O32: each of the three is one register write, of the value named. -/
theorem loadsAndAddImmediateWriteVx : Obligations.LoadsAndAddImmediateWriteVx := by
  intro x y nn s
  simp only [append_eq_wordRegReg]
  refine ⟨decodeWord_ldImm x nn, decodeWord_addImm x nn, decodeWord_ldReg x y,
    ⟨_, exec_ldImm s x nn, State.getV_setV_same s x _, onlyRegistersChange_setV s x _⟩,
    ⟨_, exec_addImm s x nn, ?_, onlyRegistersChange_setV s x _⟩,
    ⟨_, exec_ldReg s x y, State.getV_setV_same s x _, onlyRegistersChange_setV s x _⟩⟩
  rw [State.getV_setV_same, BitVec.toNat_add]

/-- Settles O34: the sum is the result, read back where VF does not overwrite it; the carry is the flag. -/
theorem addRegSumsWithCarry : Obligations.AddRegSumsWithCarry := by
  intro x y s
  simp only [append_eq_wordRegReg]
  refine ⟨decodeWord_addReg x y, _, exec_addReg s x y, fun hx => ?_, ?_, onlyRegistersChange_setResultFlag s x _ _⟩
  · rw [State.getV_setResultFlag_result s _ _ hx, BitVec.toNat_add]
  · rw [State.getV_setResultFlag_VF, flagByte_carryFlag]

/-- Settles O35: SUB and SUBN are one difference with its flag, the operands exchanged. -/
theorem subtractionsWithNoBorrow : Obligations.SubtractionsWithNoBorrow := by
  intro x y s
  simp only [append_eq_wordRegReg]
  exact ⟨decodeWord_subReg x y, decodeWord_subn x y,
    ⟨_, exec_subReg s x y, setResultFlag_difference s x _ _⟩,
    ⟨_, exec_subn s x y, setResultFlag_difference s x _ _⟩⟩

end Sys2Proof.Machine
end

section
/-! SUPPORT. What the address register instructions and FX33 answer (42_index_memory.md), and what a run of bytes
stored at the data addresses I, I + 1, ... reads back as (20_memory.md R33): one lemma at the addresses stored to, one
at every other, for any bytes. -/

namespace Sys2Proof

theorem decodeWord_ldI (nnn : Addr12) : decodeWord (wordAddr 0xA#4 nnn) = some (.ldI nnn) := by simp [decodeWord]

theorem decodeWord_addIVx (x : Reg) : decodeWord (wordRegByte 0xF#4 x 0x1E#8) = some (.addIVx x) := by
  simp [decodeWord, decodeFamilyF]

theorem decodeWord_ldBVx (x : Reg) : decodeWord (wordRegByte 0xF#4 x 0x33#8) = some (.ldBVx x) := by
  simp [decodeWord, decodeFamilyF]

end Sys2Proof

namespace Sys2Proof.Machine

variable (s : State)

/-! ## The next states -/

theorem exec_ldI (nnn : Addr12) : exec (.ldI nnn) s = .next (s.setI (zext16 nnn)) := rfl

theorem exec_addIVx (x : Reg) : exec (.addIVx x) s = .next (s.setI (s.i + (s.getV x).setWidth 16)) := rfl

theorem exec_ldBVx (x : Reg) :
    exec (.ldBVx x) s =
      orRaise (s.dataAddrs 3) fun as => .next (s.writeCells (as.zip (decimalDigits (s.getV x)))) := rfl

/-- A byte added to a word, modulo 2^16 (R79). -/
theorem toNat_add_zext_byte (w : Word) (b : Byte) : (w + b.setWidth 16).toNat = (w.toNat + b.toNat) % 65536 := by
  rw [BitVec.toNat_add, BitVec.toNat_setWidth_of_le (by decide)]

/-! ## Decimal digits (R81) -/

@[simp] theorem length_decimalDigits (b : Byte) : (decimalDigits b).length = 3 := rfl

theorem toNat_decimalDigits (b : Byte) :
    (decimalDigits b)[0].toNat = b.toNat / 100 ∧ (decimalDigits b)[1].toNat = b.toNat / 10 % 10 ∧
      (decimalDigits b)[2].toNat = b.toNat % 10 := by
  have hb : b.toNat < 256 := b.isLt
  simp only [decimalDigits, List.getElem_cons_zero, List.getElem_cons_succ, BitVec.toNat_ofNat]
  omega

/-! ## The data addresses of an access (R33) -/

variable {s}

theorem State.dataAddrs_of_inside {n : Nat} (h : s.DataInside n) : ∃ as, s.dataAddrs n = .ok as :=
  ⟨_, effAddrs_of_inside h⟩

theorem State.dataAddrs_of_not_inside {n : Nat} (hn : 0 < n) (h : ¬s.DataInside n) :
    s.dataAddrs n = .error (.addressOutOfRange (max s.i.toNat 0x1000)) := by
  obtain ⟨hmask, hout⟩ := not_or.mp h
  cases hp : s.cfg.dataAddrPolicy with
  | mask => exact absurd hp hmask
  | reject =>
    rw [State.dataAddrs, hp]
    exact effAddrs_outside hn (by omega)

/-- The addresses of an access are, in order, the effective addresses of its data addresses. -/
theorem effAddr_of_effAddrs {p : DataAddrPolicy} {base n : Nat} {as : List Nat} (h : effAddrs p base n = .ok as)
    {k : Nat} (hk : k < as.length) : effAddr p (base + k) = .ok as[k] := by
  induction n generalizing base as k with
  | zero =>
    cases h
    exact absurd hk (Nat.not_lt_zero k)
  | succ n ih =>
    simp only [effAddrs] at h
    split at h
    · cases h
    · rename_i a ha
      split at h
      · cases h
      · rename_i rest hrest
        cases h
        cases k with
        | zero => exact ha
        | succ k =>
          rw [show base + (k + 1) = base + 1 + k by omega]
          exact ih hrest (Nat.lt_of_succ_lt_succ hk)

/-! ## Storing bytes at the data addresses -/

section Store

variable {n : Nat} {bytes : List Byte} {as : List Nat} (has : s.dataAddrs n = .ok as)

include has

/-- The byte with number `k` is read back at the effective address of I + k: no more than 4096 data addresses share no
effective address, under `mask` too. -/
theorem State.readMem_store {k a : Nat} (hlen : bytes.length = n) (hm : Memory.wf s.cfg s.mem = true)
    (hn : n ≤ memSize) (hk : k < bytes.length) (ha : effAddr s.cfg.dataAddrPolicy (s.i.toNat + k) = .ok a) :
    (s.writeCells (as.zip bytes)).readMem a = bytes[k] := by
  have hlens : as.length = bytes.length := (effAddrs_length has).trans hlen.symm
  have hka : k < as.length := hlens ▸ hk
  obtain rfl : as[k] = a := Except.ok.inj ((effAddr_of_effAddrs has hka).symm.trans ha)
  refine s.readMem_writeCells_mem (as.zip bytes) hm ?_ ?_ ?_
  · exact fun e he => effAddrs_inside has e.1 (List.of_mem_zip he).1
  · rw [List.map_fst_zip hlens.le]
    exact effAddrs_nodup hn has
  · exact List.mem_iff_getElem.mpr ⟨k, by simp [hka, hk], List.getElem_zip⟩

/-- An address that is the effective address of none of the data addresses reads as before. -/
theorem State.readMem_store_other {a : Nat}
    (h : ∀ k, k < n → effAddr s.cfg.dataAddrPolicy (s.i.toNat + k) ≠ .ok a) :
    (s.writeCells (as.zip bytes)).readMem a = s.readMem a := by
  refine s.readMem_writeCells_ne (as.zip bytes) fun e he hea => ?_
  obtain ⟨k, hk, hka⟩ := List.mem_iff_getElem.mp (List.of_mem_zip he).1
  exact h k (effAddrs_length has ▸ hk) (by rw [effAddr_of_effAddrs has hk, hka, hea])

end Store

end Sys2Proof.Machine
end

section
/-! PROOFS. The obligations of 42_index_memory.md. -/

namespace Sys2Proof.Machine

/-- Settles O40: the addresses are checked first; the three digits are a run of bytes stored at them. -/
theorem ldBStoresDecimalDigits : Obligations.LdBStoresDecimalDigits := by
  intro x s
  refine ⟨decodeWord_ldBVx x, fun hout => ?_, fun hm hin => ?_⟩
  · rw [exec_ldBVx, State.dataAddrs_of_not_inside (by decide) hout, orRaise_error]
  · obtain ⟨as, has⟩ := State.dataAddrs_of_inside hin
    obtain ⟨hhundreds, htens, hones⟩ := toNat_decimalDigits (s.getV x)
    have hread {k a : Nat} (hk : k < 3) (ha : effAddr s.cfg.dataAddrPolicy (s.i.toNat + k) = .ok a) :
        (s.writeCells (as.zip (decimalDigits (s.getV x)))).readMem a = (decimalDigits (s.getV x))[k] :=
      State.readMem_store has (length_decimalDigits _) hm (by decide) hk ha
    refine ⟨_, by rw [exec_ldBVx, has, orRaise_ok], fun a ha => ?_, fun a ha => ?_, fun a ha => ?_,
      fun _ => State.readMem_store_other has, rfl⟩
    · rw [hread (k := 0) (by decide) ha, hhundreds]
    · rw [hread (k := 1) (by decide) ha, htens]
    · rw [hread (k := 2) (by decide) ha, hones]

/-- Settles O38: each of the two is one write of I, of the address zero-extended or of the sum modulo 2^16. -/
theorem ldIAndAddISetAddressRegister : Obligations.LdIAndAddISetAddressRegister := by
  intro nnn x s
  exact ⟨decodeWord_ldI nnn, decodeWord_addIVx x,
    ⟨_, exec_ldI s nnn, toNat_zext16 nnn, rfl⟩,
    ⟨_, exec_addIVx s x, toNat_add_zext_byte s.i (s.getV x), rfl⟩⟩

end Sys2Proof.Machine
end

section
/-! SUPPORT. The decoder and the encoder are inverse to each other (30_encoding.md R44, R45): every well-formed
instruction is decoded from its word, and every word that decodes is put together again from its fields. -/

namespace Sys2Proof

/-! ## Decoding the word of an instruction -/

/-- A row count of at most 15 fits the four bits of N (R43). -/
theorem toNat_ofNat_rows {n : Nat} (h : n ≤ spriteMaxRows) : (BitVec.ofNat 4 n).toNat = n := by
  rw [BitVec.toNat_ofNat]
  exact Nat.mod_eq_of_lt (Nat.lt_succ_of_le h)

theorem decodeWord_drw (x y : Reg) {n : Nat} (h : n ≤ spriteMaxRows) :
    decodeWord (wordRegReg 0xD#4 x y (BitVec.ofNat 4 n)) = some (.drw x y n) := by
  simp [decodeWord, -BitVec.toNat_ofNat, toNat_ofNat_rows h]

/-- Every well-formed instruction is decoded from its word: its family is the top nibble, and the sub-dispatch of
families 0x8, 0xE and 0xF is on the low nibble or byte of the format. -/
theorem decodeWord_encode (i : Instr) (h : i.wf = true) : decodeWord (encode i) = some i := by
  cases i with
  | cls | ret => decide
  | seReg x y => exact (decodeWord_family5 x y 0).trans (if_pos rfl)
  | sneReg x y => exact (decodeWord_family9 x y 0).trans (if_pos rfl)
  | drw x y n => exact decodeWord_drw x y (of_decide_eq_true h)
  | _ => simp [encode, decodeWord, decodeFamily8, decodeFamilyE, decodeFamilyF]

/-! ## A word from its fields -/

@[simp] theorem bits_fieldX (op : Word) : (fieldX op).bits = op.extractLsb' 8 4 := rfl

@[simp] theorem bits_fieldY (op : Word) : (fieldY op).bits = op.extractLsb' 4 4 := rfl

theorem wordAddr_fields {op : Word} {f : BitVec 4} (h : (fieldF op).toNat = f.toNat) :
    wordAddr f (fieldNNN op) = op := by
  obtain rfl : fieldF op = f := BitVec.eq_of_toNat_eq h
  apply BitVec.eq_of_getLsbD_eq
  intro i hi
  rw [getLsbD_wordAddr]
  split
  · simp [fieldNNN, *]
  · simp [fieldF, show i - 12 < 4 by omega, show 12 + (i - 12) = i by omega]

theorem wordRegByte_fields {op : Word} {f : BitVec 4} {k : Byte} (h : (fieldF op).toNat = f.toNat)
    (hk : (fieldNN op).toNat = k.toNat) : wordRegByte f (fieldX op) k = op := by
  obtain rfl : fieldF op = f := BitVec.eq_of_toNat_eq h
  obtain rfl : fieldNN op = k := BitVec.eq_of_toNat_eq hk
  apply BitVec.eq_of_getLsbD_eq
  intro i hi
  rw [getLsbD_wordRegByte]
  split
  · simp [fieldNN, *]
  · split
    · simp [*, show 8 + (i - 8) = i by omega]
    · simp [fieldF, show i - 8 - 4 < 4 by omega, show 12 + (i - 8 - 4) = i by omega]

theorem wordRegReg_fields {op : Word} {f n : BitVec 4} (h : (fieldF op).toNat = f.toNat)
    (hn : (fieldN op).toNat = n.toNat) : wordRegReg f (fieldX op) (fieldY op) n = op := by
  obtain rfl : fieldF op = f := BitVec.eq_of_toNat_eq h
  obtain rfl : fieldN op = n := BitVec.eq_of_toNat_eq hn
  apply BitVec.eq_of_getLsbD_eq
  intro i hi
  rw [getLsbD_wordRegReg]
  split
  · split
    · simp [fieldN, *]
    · simp [show i - 4 < 4 by omega, show 4 + (i - 4) = i by omega]
  · split
    · simp [*, show 8 + (i - 8) = i by omega]
    · simp [fieldF, show i - 8 - 4 < 4 by omega, show 12 + (i - 8 - 4) = i by omega]

/-! ## Encoding what a word decodes to -/

variable {op : Word} {i : Instr}

theorem encode_of_decodeFamily0 (h : decodeFamily0 op = some i) : i.wf = true ∧ encode i = op := by
  unfold decodeFamily0 at h
  split at h
  · cases h; exact ⟨rfl, Eq.symm ‹_›⟩
  · split at h
    · cases h; exact ⟨rfl, Eq.symm ‹_›⟩
    · cases h

theorem encode_of_decodeFamily8 (hF : (fieldF op).toNat = 0x8) (h : decodeFamily8 op = some i) :
    i.wf = true ∧ encode i = op := by
  unfold decodeFamily8 at h
  dsimp only at h
  split at h <;> cases h <;> exact ⟨rfl, wordRegReg_fields hF ‹_›⟩

theorem encode_of_decodeFamilyE (hF : (fieldF op).toNat = 0xE) (h : decodeFamilyE op = some i) :
    i.wf = true ∧ encode i = op := by
  unfold decodeFamilyE at h
  dsimp only at h
  split at h <;> cases h <;> exact ⟨rfl, wordRegByte_fields hF ‹_›⟩

theorem encode_of_decodeFamilyF (hF : (fieldF op).toNat = 0xF) (h : decodeFamilyF op = some i) :
    i.wf = true ∧ encode i = op := by
  unfold decodeFamilyF at h
  dsimp only at h
  split at h <;> cases h <;> exact ⟨rfl, wordRegByte_fields hF ‹_›⟩

/-- A word that decodes is the word of the well-formed instruction it decodes to. -/
theorem encode_of_decodeWord (h : decodeWord op = some i) : i.wf = true ∧ encode i = op := by
  unfold decodeWord at h
  split at h
  case h_1 => exact encode_of_decodeFamily0 h
  case h_2 hF => cases h; exact ⟨rfl, wordAddr_fields hF⟩
  case h_3 hF => cases h; exact ⟨rfl, wordAddr_fields hF⟩
  case h_4 hF => cases h; exact ⟨rfl, wordRegByte_fields hF rfl⟩
  case h_5 hF => cases h; exact ⟨rfl, wordRegByte_fields hF rfl⟩
  case h_6 hF =>
    split at h
    · cases h; exact ⟨rfl, wordRegReg_fields hF (congrArg BitVec.toNat ‹_›)⟩
    · cases h
  case h_7 hF => cases h; exact ⟨rfl, wordRegByte_fields hF rfl⟩
  case h_8 hF => cases h; exact ⟨rfl, wordRegByte_fields hF rfl⟩
  case h_9 hF => exact encode_of_decodeFamily8 hF h
  case h_10 hF =>
    split at h
    · cases h; exact ⟨rfl, wordRegReg_fields hF (congrArg BitVec.toNat ‹_›)⟩
    · cases h
  case h_11 hF => cases h; exact ⟨rfl, wordAddr_fields hF⟩
  case h_12 hF => cases h; exact ⟨rfl, wordAddr_fields hF⟩
  case h_13 hF => cases h; exact ⟨rfl, wordRegByte_fields hF rfl⟩
  case h_14 hF =>
    cases h
    have hn : (fieldN op).toNat ≤ spriteMaxRows := Nat.le_of_lt_succ (fieldN op).isLt
    exact ⟨decide_eq_true hn, wordRegReg_fields hF (toNat_ofNat_rows hn).symm⟩
  case h_15 hF => exact encode_of_decodeFamilyE hF h
  case h_16 =>
    have hlt : (fieldF op).toNat < 16 := (fieldF op).isLt
    have hF : (fieldF op).toNat = 0xF := by
      simp only [imp_false] at *
      omega
    exact encode_of_decodeFamilyF hF h

end Sys2Proof
end

section
/-! SUPPORT. The opcode table and the decoder (30_encoding.md R44..R46): the fields a row's mask keeps of a word are
those of the row's pattern, and they are the fields the decoder dispatches on. -/

namespace Sys2Proof

variable {op mask pattern : Word} {r : OpcodeRow}

/-- Bits that a mask keeps are those of the pattern. -/
theorem extractLsb'_of_match {start len : Nat} (hmask : mask.extractLsb' start len = BitVec.allOnes len)
    (h : op &&& mask = pattern) : op.extractLsb' start len = pattern.extractLsb' start len := by
  rw [← h, BitVec.extractLsb'_and, hmask, BitVec.and_allOnes]

theorem fieldF_of_match (hmask : fieldF mask = 0xF#4) (h : op &&& mask = pattern) : fieldF op = fieldF pattern :=
  extractLsb'_of_match hmask h

theorem fieldN_of_match (hmask : fieldN mask = 0xF#4) (h : op &&& mask = pattern) : fieldN op = fieldN pattern :=
  extractLsb'_of_match hmask h

theorem fieldNN_of_match (hmask : fieldNN mask = 0xFF#8) (h : op &&& mask = pattern) :
    fieldNN op = fieldNN pattern :=
  extractLsb'_of_match hmask h

/-- A word that matches the row of an instruction decodes to an instruction of that row. -/
theorem decodeWord_of_match (i : Instr) (h : op &&& i.row.mask = i.row.pattern) :
    ∃ j, decodeWord op = some j ∧ j.row = i.row := by
  cases i <;> dsimp only [Instr.row] at h ⊢
  case cls | ret =>
    obtain rfl : op = _ := BitVec.and_allOnes.symm.trans h
    exact ⟨_, by rfl, by rfl⟩
  case seReg | sneReg =>
    exact ⟨_, by rw [decodeWord, fieldF_of_match rfl h]; exact if_pos (fieldN_of_match rfl h), by rfl⟩
  case ldReg | orReg | andReg | xorReg | addReg | subReg | shr | subn | shl =>
    exact ⟨_, by rw [decodeWord, fieldF_of_match rfl h, decodeFamily8, fieldN_of_match rfl h]; rfl, by rfl⟩
  case skp | sknp =>
    exact ⟨_, by rw [decodeWord, fieldF_of_match rfl h, decodeFamilyE, fieldNN_of_match rfl h]; rfl, by rfl⟩
  case ldVxDt | ldVxK | ldDtVx | ldStVx | addIVx | ldFVx | ldBVx | ldMemVx | ldVxMem =>
    exact ⟨_, by rw [decodeWord, fieldF_of_match rfl h, decodeFamilyF, fieldNN_of_match rfl h]; rfl, by rfl⟩
  all_goals exact ⟨_, by rw [decodeWord, fieldF_of_match rfl h]; rfl, by rfl⟩

/-- The encoded word of a well-formed instruction matches its row: the family TablePattern of Laws/PerInstr.lean. -/
theorem encode_match (i : Instr) : Laws.TablePattern.Statement i := by
  cases i with
  | cls => exact Laws.TablePattern.cls
  | ret => exact Laws.TablePattern.ret
  | jp | call | ldI | jpV0 => exact fun _ => Laws.TablePattern.addr _ _
  | seImm | sneImm | ldImm | addImm | rnd => exact fun _ => Laws.TablePattern.regByte _ _ _
  | drw x y n => exact Laws.TablePattern.drw x y n
  | skp | sknp | ldVxDt | ldVxK | ldDtVx | ldStVx | addIVx | ldFVx | ldBVx | ldMemVx | ldVxMem =>
    exact fun _ => Laws.TablePattern.reg _ _ _
  | _ => exact fun _ => Laws.TablePattern.regReg _ _ _ _

/-- A word that decodes matches the row of the instruction it decodes to. -/
theorem match_of_decodeWord {i : Instr} (h : decodeWord op = some i) : op &&& i.row.mask = i.row.pattern := by
  obtain ⟨hwf, rfl⟩ := encode_of_decodeWord h
  exact encode_match i hwf

/-- The rows of the table are the rows of the instructions. -/
theorem mem_opcodeTable_iff : r ∈ opcodeTable ↔ ∃ i : Instr, i.row = r := by
  constructor
  · intro h
    obtain ⟨i, -, hi⟩ := List.mem_map.mp h
    exact ⟨i, hi⟩
  · rintro ⟨i, rfl⟩
    cases i <;> simp [opcodeTable, Instr.row]

end Sys2Proof
end

section
/-! PROOFS. The obligations of 30_encoding.md about words and instructions. -/

namespace Sys2Proof

/-- Settles O8: the decoder reads the two bytes as the word of the instruction. -/
theorem decodeOfEncodeIsIdentity : Obligations.DecodeOfEncodeIsIdentity :=
  fun i rest hwf => decode_bytes_of_word rest (decodeWord_encode i hwf)

/-- Settles O9: by family, the word is put together again from the fields the decoder read. -/
theorem encodeOfDecodeIsIdentity : Obligations.EncodeOfDecodeIsIdentity :=
  fun _ _ h => encode_of_decodeWord h

/-- Settles O10: a match of a row and a decoding give each other; two rows that match one word are both the row of the
one instruction it decodes to. -/
theorem decoderAgreesWithOpcodeTable : Obligations.DecoderAgreesWithOpcodeTable := by
  intro op
  refine ⟨⟨?_, ?_⟩, fun i h => match_of_decodeWord h, ?_⟩
  · rintro ⟨i, h⟩
    exact ⟨i.row, mem_opcodeTable_iff.mpr ⟨i, rfl⟩, match_of_decodeWord h⟩
  · rintro ⟨r, hr, h⟩
    obtain ⟨i, rfl⟩ := mem_opcodeTable_iff.mp hr
    obtain ⟨j, hj, -⟩ := decodeWord_of_match i h
    exact ⟨j, hj⟩
  · intro r hr r' hr' h h'
    obtain ⟨i, rfl⟩ := mem_opcodeTable_iff.mp hr
    obtain ⟨i', rfl⟩ := mem_opcodeTable_iff.mp hr'
    obtain ⟨j, hj, hrow⟩ := decodeWord_of_match i h
    obtain ⟨j', hj', hrow'⟩ := decodeWord_of_match i' h'
    obtain rfl : j = j' := Option.some.inj (hj.symm.trans hj')
    exact hrow.symm.trans hrow'

/-- Settles O11: three of the words spell no instruction, by a nibble or a byte that the dispatch compares. -/
theorem sampleWordsDecode : Obligations.SampleWordsDecode := by
  unfold Obligations.SampleWordsDecode
  decide

end Sys2Proof
end

section
/-! SUPPORT. What an instruction that completes can leave, said once (30_encoding.md R50, 10_state.md): the kinds of
instruction by the items they write. Every invariant and every frame over all instructions splits on these kinds. -/

namespace Sys2Proof.Machine

/-- The six skips (R55). -/
def IsSkip (i : Instr) : Prop :=
  (∃ x nn, i = .seImm x nn ∨ i = .sneImm x nn) ∨ (∃ x y, i = .seReg x y ∨ i = .sneReg x y) ∨
    (∃ x, i = .skp x ∨ i = .sknp x)

/-- The instructions that write V[X] and no flag, RND and FX65 apart. -/
def WritesVx (i : Instr) (x : Reg) : Prop :=
  (∃ nn, i = .ldImm x nn ∨ i = .addImm x nn) ∨
    (∃ y, i = .ldReg x y ∨ i = .orReg x y ∨ i = .andReg x y ∨ i = .xorReg x y) ∨ i = .ldVxDt x

/-- The instructions that write V[X] and then the flag (R65). -/
def WritesVxAndFlag (i : Instr) (x : Reg) : Prop :=
  ∃ y, i = .addReg x y ∨ i = .subReg x y ∨ i = .subn x y ∨ i = .shr x y ∨ i = .shl x y

/-- The state an instruction can leave from `s`, by the items it writes. -/
inductive Leaves (s : State) : Instr → State → Prop
  | skip {i : Instr} (taken : Bool) (hi : IsSkip i) : Leaves s i (s.skipIf taken)
  | jump {i : Instr} (w : Word) (hw : w.toNat ≤ maxPc) (hi : ∃ nnn, i = .jp nnn ∨ i = .jpV0 nnn) :
      Leaves s i (s.setPc w)
  | call (nnn : Addr12) (h : s.sp.val < 16) :
      Leaves s (.call nnn)
        ((s.setStack (s.stack.set s.sp.val s.pc h) ⟨s.sp.val + 1, by omega⟩).setPc (zext16 nnn))
  | ret (h : 0 < s.sp.val) :
      Leaves s .ret
        ((s.setStack s.stack ⟨s.sp.val - 1, by omega⟩).setPc (s.stack[s.sp.val - 1]'(by omega)))
  | register {i : Instr} (x : Reg) (b : Byte) (hi : WritesVx i x) : Leaves s i (s.setV x b)
  | resultFlag {i : Instr} (x : Reg) (b : Byte) (f : Bool) (hi : WritesVxAndFlag i x) :
      Leaves s i (s.setResultFlag x b f)
  | rnd (x : Reg) (nn b : Byte) : Leaves s (.rnd x nn) (s.drawRandom.setV x b)
  | index {i : Instr} (w : Word) (hi : (∃ nnn, i = .ldI nnn) ∨ ∃ x, i = .addIVx x ∨ i = .ldFVx x) :
      Leaves s i (s.setI w)
  | delay (x : Reg) (b : Byte) : Leaves s (.ldDtVx x) (s.setDt b)
  | sound (x : Reg) (b : Byte) : Leaves s (.ldStVx x) (s.setSt b)
  | clear : Leaves s .cls (s.setFb blankScreen).requestRedraw
  | draw (x y : Reg) (n : Nat) (fb : Framebuffer) (f : Bool) :
      Leaves s (.drw x y n) ((s.setFb fb).setFlag f).requestRedraw
  | store {i : Instr} (cells : List Host.Cell) (hin : ∀ e ∈ cells, e.1 < memSize)
      (hi : ∃ x, i = .ldBVx x ∨ i = .ldMemVx x) : Leaves s i (s.writeCells cells)
  | load (x : Reg) (bytes : List Byte) (hlen : bytes.length = x.val + 1) :
      Leaves s (.ldVxMem x) (s.loadRegs bytes)
  | wait (x : Reg) : Leaves s (.ldVxK x) (s.setWait true x s.keys).reportHalted

variable {s t : State} {i : Instr}

/-- The unbounded sum of BNNN is at most 0xFF + 0xFFF, so it does not wrap (R13, R63). -/
theorem toNat_jumpTarget (b : Byte) (nnn : Addr12) :
    (BitVec.ofNat 16 (b.toNat + nnn.toNat)).toNat = b.toNat + nnn.toNat := by
  have hb : b.toNat < 256 := b.isLt
  have hn : nnn.toNat < 4096 := nnn.isLt
  rw [BitVec.toNat_ofNat]
  omega

theorem toNat_jumpTarget_le (b : Byte) (nnn : Addr12) :
    (BitVec.ofNat 16 (b.toNat + nnn.toNat)).toNat ≤ maxPc := by
  have hb : b.toNat < 256 := b.isLt
  have hn : nnn.toNat < 4096 := nnn.isLt
  rw [toNat_jumpTarget, maxPc]
  omega

theorem toNat_zext16_le (nnn : Addr12) : (zext16 nnn).toNat ≤ maxPc := by
  have hn : nnn.toNat < 4096 := nnn.isLt
  rw [toNat_zext16, maxPc]
  omega

/-- The cells of a checked store lie in memory, whatever the bytes. -/
theorem State.zip_inside {n : Nat} {as : List Nat} (has : s.dataAddrs n = .ok as) (bytes : List Byte) :
    ∀ e ∈ as.zip bytes, e.1 < memSize :=
  fun e he => effAddrs_inside has e.1 (List.of_mem_zip he).1

/-- What an instruction that completes leaves. -/
theorem leaves_of_exec (h : exec i s = .next t) : Leaves s i t := by
  cases i with
  | cls => cases h; exact .clear
  | ret =>
    obtain ⟨hpos, -⟩ | ⟨hempty, -⟩ := s.popPc_cases
    · cases (exec_ret_of_pos hpos).symm.trans h; exact .ret hpos
    · cases (exec_ret_of_empty hempty).symm.trans h
  | call nnn =>
    obtain ⟨hlt, -⟩ | ⟨hfull, -⟩ := s.pushPc_cases
    · cases (exec_call_of_lt nnn hlt).symm.trans h; exact .call nnn hlt
    · cases (exec_call_of_full nnn hfull).symm.trans h
  | jp nnn => cases h; exact .jump _ (toNat_zext16_le nnn) ⟨nnn, .inl rfl⟩
  | jpV0 nnn => cases h; exact .jump _ (toNat_jumpTarget_le _ nnn) ⟨nnn, .inr rfl⟩
  | seImm x nn => cases h; exact .skip _ (.inl ⟨x, nn, .inl rfl⟩)
  | sneImm x nn => cases h; exact .skip _ (.inl ⟨x, nn, .inr rfl⟩)
  | seReg x y => cases h; exact .skip _ (.inr (.inl ⟨x, y, .inl rfl⟩))
  | sneReg x y => cases h; exact .skip _ (.inr (.inl ⟨x, y, .inr rfl⟩))
  | skp x => cases h; exact .skip _ (.inr (.inr ⟨x, .inl rfl⟩))
  | sknp x => cases h; exact .skip _ (.inr (.inr ⟨x, .inr rfl⟩))
  | ldImm | addImm | ldReg | orReg | andReg | xorReg | ldVxDt =>
    cases h; exact .register _ _ (by simp [WritesVx])
  | addReg | subReg | shr | subn | shl => cases h; exact .resultFlag _ _ _ (by simp [WritesVxAndFlag])
  | rnd x nn => cases h; exact .rnd x nn _
  | ldI nnn => cases h; exact .index _ (.inl ⟨nnn, rfl⟩)
  | addIVx x => cases h; exact .index _ (.inr ⟨x, .inl rfl⟩)
  | ldFVx x => cases h; exact .index _ (.inr ⟨x, .inr rfl⟩)
  | ldDtVx x => cases h; exact .delay x _
  | ldStVx x => cases h; exact .sound x _
  | ldVxK x => cases h; exact .wait x
  | drw x y n =>
    obtain ⟨as, -, h⟩ := orRaise_eq_next h
    cases h; exact .draw x y n _ _
  | ldBVx x =>
    obtain ⟨as, has, h⟩ := orRaise_eq_next h
    cases h; exact .store _ (State.zip_inside has _) ⟨x, .inl rfl⟩
  | ldMemVx x =>
    obtain ⟨as, has, h⟩ := orRaise_eq_next h
    cases h; exact .store _ (State.zip_inside has _) ⟨x, .inr rfl⟩
  | ldVxMem x =>
    obtain ⟨as, has, h⟩ := orRaise_eq_next h
    cases h; exact .load x _ (by simp [State.readCells, effAddrs_length has])

end Sys2Proof.Machine
end

section
/-! SUPPORT. The invariant of the block over instructions, steps and transactions (10_state.md R13, R21; 40_flow.md
R58), and what the two transactions that can fail answer (60_exceptions.md R106, 70_reset_and_hazards.md R116). -/

namespace Sys2Proof.Machine

variable {s t : State} {i : Instr}

/-! ## The host's transactions by case -/

theorem State.setKey_cases (s : State) (k : Nat) (p : Bool) :
    (∃ ks, s.setKey k p = .next (s.setKeys ks)) ∨ s.setKey k p = .refused (.keySymbolOutOfRange k) := by
  unfold State.setKey
  split
  · exact .inl ⟨_, rfl⟩
  · exact .inr rfl

theorem maxImage_eq : maxImage = 3584 := rfl

theorem State.load_cases (s : State) (image : List Byte) :
    (image.length ≤ 3584 ∧ s.load image = .next (s.writeCells (cellsFrom 0x200 image))) ∨
    (3584 < image.length ∧ s.load image = .fault (.imageTooLarge image.length)) := by
  unfold State.load
  rw [maxImage_eq]
  split
  · exact .inr ⟨‹_›, rfl⟩
  · exact .inl ⟨by omega, rfl⟩

/-- An image that is not too long lies in memory from 0x200 up. -/
theorem cellsFrom_image_inside {image : List Byte} (h : image.length ≤ 3584) :
    ∀ e ∈ cellsFrom 0x200 image, e.1 < memSize := by
  intro e he
  have hmem : e.1 ∈ (cellsFrom 0x200 image).map Prod.fst := List.mem_map.mpr ⟨e, he, rfl⟩
  rw [cellsFrom_map_fst, List.mem_range'_1] at hmem
  simp only [memSize]
  omega

/-! ## The invariant -/

/-- An address at least 4 below 2^16 is not reduced by the advance of a step (D12). -/
theorem toNat_add_two {w : Word} (h : w.toNat ≤ maxPc + 2) : (w + 2).toNat = w.toNat + 2 := by
  rw [maxPc] at h
  rw [BitVec.toNat_add]
  exact Nat.mod_eq_of_lt (by change w.toNat + 2 < 65536; omega)

/-- An instruction executed with PC at most 0x1000, the advance of a fetched one, leaves a good state. -/
theorem Leaves.inv (h : Leaves s i t) (hmem : Memory.wf s.cfg s.mem = true) (hpc : s.pc.toNat ≤ maxReturn)
    (hstack : ∀ j (hj : j < 16), s.stack[j].toNat ≤ maxReturn) : t.Inv := by
  have hreturn : maxReturn + 2 ≤ maxPc := by decide
  have hle : s.pc.toNat ≤ maxPc := by omega
  cases h with
  | skip taken =>
    refine ⟨hmem, ?_, hstack⟩
    cases taken with
    | false => exact hle
    | true =>
      calc (s.pc + 2).toNat = s.pc.toNat + 2 := toNat_add_two (by omega)
        _ ≤ maxPc := by omega
  | jump w hw => exact ⟨hmem, hw, hstack⟩
  | call nnn hlt =>
    refine ⟨hmem, toNat_zext16_le nnn, fun j hj => ?_⟩
    simp only [State.setPc_stack, State.setStack_stack, Vector.getElem_set]
    split
    · exact hpc
    · exact hstack j hj
  | ret hpos =>
    have hentry : s.stack[s.sp.val - 1].toNat ≤ maxReturn := hstack (s.sp.val - 1) (by omega)
    exact ⟨hmem, hentry.trans (by decide), hstack⟩
  | store cells hin => exact ⟨s.wf_writeCells cells hmem hin, hle, hstack⟩
  | _ => exact ⟨hmem, hle, hstack⟩

/-- A waiting step writes nothing the invariant speaks of. -/
theorem State.Inv.waitStep (h : s.Inv) : s.waitStep.Inv := by
  obtain ⟨-, e⟩ | ⟨k, -, e⟩ := s.waitStep_cases <;> rw [e] <;> exact ⟨h.memory, h.pc, h.stack⟩

theorem State.Inv.clearEffect (h : s.Inv) : s.clearEffect.Inv := ⟨h.memory, h.pc, h.stack⟩

theorem State.Inv.step (h : s.Inv) (hs : step s = .next t) : t.Inv := by
  obtain ⟨-, rfl⟩ | ⟨-, hpc, i, -, hexec⟩ := step_next_cases hs
  · exact h.clearEffect.waitStep
  · refine (leaves_of_exec hexec).inv h.memory ?_ h.stack
    calc (s.pc + 2).toNat = s.pc.toNat + 2 := toNat_add_two (by rw [maxPc]; omega)
      _ ≤ maxReturn := by rw [maxReturn]; omega

theorem State.Inv.transact (h : s.Inv) (x : Transaction) : (transact s x).1.Inv := by
  cases x with
  | step =>
    change (s.settle (Machine.step s)).Inv
    cases hs : Machine.step s with
    | next t => exact h.step hs
    | fault | refused => exact h
  | tickTimers => exact ⟨h.memory, h.pc, h.stack⟩
  | setKey k p =>
    change (s.settle (s.setKey k p)).Inv
    obtain ⟨ks, e⟩ | e := s.setKey_cases k p <;> rw [e]
    · exact ⟨h.memory, h.pc, h.stack⟩
    · exact h
  | load image =>
    change (s.settle (s.load image)).Inv
    obtain ⟨hlen, e⟩ | ⟨-, e⟩ := s.load_cases image <;> rw [e]
    · exact ⟨s.wf_writeCells _ h.memory (cellsFrom_image_inside hlen), h.pc, h.stack⟩
    · exact h
  | read => exact h

theorem State.Inv.drive (h : s.Inv) (xs : List Transaction) : (drive s xs).Inv := by
  induction xs generalizing s with
  | nil => exact h
  | cons x xs ih => exact ih (h.transact x)

theorem inv_construct (c : Config) (rng : List Byte) : (State.construct c rng).Inv where
  memory := Memory.wf_nil c
  pc := show (0x200#16).toNat ≤ maxPc by decide
  stack j hj := by simp [State.construct]

theorem Reachable.inv (h : Reachable s) : s.Inv := by
  obtain ⟨c, rng, xs, rfl⟩ := h
  exact (inv_construct c rng).drive xs

end Sys2Proof.Machine
end

section
/-! SUPPORT. The canonical form of memory is one form (log 6): the first cell of a canonical list is the lowest address
that does not read as its reset contents. -/

namespace Sys2Proof.Machine

variable {c : Config} {lo k : Nat} {b : Byte} {m m' rest : Memory}

theorem Memory.wfFrom_cons : Memory.wfFrom c lo ((k, b) :: rest) = true ↔
    lo ≤ k ∧ k < memSize ∧ b ≠ resetByte c k ∧ Memory.wfFrom c (k + 1) rest = true := by
  simp only [Memory.wfFrom, Bool.and_eq_true, decide_eq_true_eq, and_assoc]

theorem Memory.read_cons_same : Memory.read c ((k, b) :: rest) k = b := by
  simp [Memory.read, Memory.find]

theorem Memory.read_cons_ne {a : Nat} (h : a ≠ k) : Memory.read c ((k, b) :: rest) a = Memory.read c rest a := by
  simp [Memory.read, Memory.find, h.symm]

/-- Below the cells of a canonical list every address reads as its reset contents. -/
theorem Memory.read_below {a : Nat} (hm : Memory.wfFrom c lo m = true) (h : a < lo) :
    Memory.read c m a = resetByte c a := by
  simp [Memory.read, Memory.find_below c hm h]

/-- A canonical list with a cell at `k` reads otherwise than one whose cells all lie above `k`. -/
theorem Memory.not_read_alike_above (hm : Memory.wfFrom c lo ((k, b) :: rest) = true)
    (hm' : Memory.wfFrom c (k + 1) m' = true)
    (h : ∀ a, a < memSize → Memory.read c ((k, b) :: rest) a = Memory.read c m' a) : False := by
  obtain ⟨-, hk, hb, -⟩ := Memory.wfFrom_cons.mp hm
  have hread := h k hk
  rw [Memory.read_cons_same, Memory.read_below hm' (Nat.lt_succ_self k)] at hread
  exact hb hread

theorem Memory.eq_of_read_alike (hm : Memory.wfFrom c lo m = true) (hm' : Memory.wfFrom c lo m' = true)
    (h : ∀ a, a < memSize → Memory.read c m a = Memory.read c m' a) : m = m' := by
  induction m generalizing lo m' with
  | nil =>
    cases m' with
    | nil => rfl
    | cons e' rest' => exact (Memory.not_read_alike_above hm' (m' := []) rfl fun a ha => (h a ha).symm).elim
  | cons e rest ih =>
    obtain ⟨k, b⟩ := e
    cases m' with
    | nil => exact (Memory.not_read_alike_above hm (m' := []) rfl h).elim
    | cons e' rest' =>
      obtain ⟨k', b'⟩ := e'
      obtain ⟨-, hk, hb, hrest⟩ := Memory.wfFrom_cons.mp hm
      obtain ⟨-, hk', hb', hrest'⟩ := Memory.wfFrom_cons.mp hm'
      obtain hlt | rfl | hgt := Nat.lt_trichotomy k k'
      · exact (Memory.not_read_alike_above hm (Memory.wfFrom_cons.mpr ⟨hlt, hk', hb', hrest'⟩) h).elim
      · have hbyte : b = b' := by simpa only [Memory.read_cons_same] using h k hk
        rw [hbyte, ih hrest hrest' fun a ha => ?_]
        by_cases hak : a = k
        · subst hak
          rw [Memory.read_below hrest (Nat.lt_succ_self a), Memory.read_below hrest' (Nat.lt_succ_self a)]
        · simpa only [Memory.read_cons_ne hak] using h a ha
      · exact (Memory.not_read_alike_above hm' (Memory.wfFrom_cons.mpr ⟨hgt, hk, hb, hrest⟩)
          fun a ha => (h a ha).symm).elim

end Sys2Proof.Machine
end

section
/-! SUPPORT. What the items of a constructed block read as (70_reset_and_hazards.md R114, 43_display.md R85). -/

namespace Sys2Proof.Machine

theorem resetByte_font (c : Config) {j : Nat} (h : j < 80) : resetByte c (c.fontBase.val + j) = c.fontTable[j] := by
  simp [resetByte, h]

theorem resetByte_other (c : Config) {a : Nat} (h : a < c.fontBase.val ∨ c.fontBase.val + 80 ≤ a) :
    resetByte c a = 0 := by
  rw [resetByte, dif_neg (by omega)]

theorem pixel_blankScreen (x : Col) (y : Line) : pixel blankScreen x y = false := by
  simp [pixel, blankScreen]

end Sys2Proof.Machine
end

section
/-! PROOFS. The obligations of 70_reset_and_hazards.md about construction, of 10_state.md about the invariant and of
20_memory.md about addresses. -/

namespace Sys2Proof.Machine

/-- Settles O3: the invariant over the kinds of instruction, executed at the advanced PC. -/
theorem everyStepKeepsInvariant : Obligations.EveryStepKeepsInvariant := fun _ _ h hs => h.step hs

/-- Settles O4: the step is O3's; load stays in memory; no other transaction writes what the invariant speaks of. -/
theorem everyTransactionKeepsInvariant : Obligations.EveryTransactionKeepsInvariant := fun _ x h => h.transact x

/-- Settles O2: memory lists no cell, PC is 0x200 and every stack entry is 0. -/
theorem constructedStatesMeetInvariant : Obligations.ConstructedStatesMeetInvariant :=
  ⟨inv_construct _ _, inv_construct⟩

/-- Settles O5: the invariant holds of every reachable state, and leaves room for two advances. -/
theorem reachablePcNeverWraps : Obligations.ReachablePcNeverWraps := by
  intro s hreach
  have hpc : s.pc.toNat ≤ maxPc := hreach.inv.pc
  have hadvance : (s.pc + 2).toNat = s.pc.toNat + 2 := toNat_add_two (by omega)
  refine ⟨hreach.inv, hpc, hadvance, ?_⟩
  rw [toNat_add_two (by omega), hadvance]

/-- Settles O6: by induction on both lists, whose first cells must lie at one address. -/
theorem canonicalMemoryIsUnique : Obligations.CanonicalMemoryIsUnique :=
  fun _ _ _ hm hm' h => Memory.eq_of_read_alike hm hm' h

/-- Settles O7: the three cases of R33. -/
theorem effectiveAddressRejectsOrMasks : Obligations.EffectiveAddressRejectsOrMasks := by
  intro p a
  obtain ⟨hle, e⟩ | ⟨hgt, rfl, e⟩ | ⟨hgt, rfl, e⟩ := effAddr_cases p a
  · exact ⟨fun _ => e, fun _ => by omega, fun _ => by omega⟩
  · exact ⟨fun _ => by omega, nofun, fun _ _ => e⟩
  · exact ⟨fun _ => by omega, fun _ _ => e, nofun⟩

/-- Settles O1: the constructed state field by field; memory lists no cell, so it reads as its reset contents. -/
theorem constructionGivesEveryResetValue : Obligations.ConstructionGivesEveryResetValue := by
  refine ⟨?_, rfl, rfl, rfl, rfl, rfl, by decide⟩
  rintro c rng s rfl
  refine ⟨rfl, fun r => ?_, rfl, rfl, rfl, fun j hj => ?_, rfl, rfl, pixel_blankScreen, rfl, rfl, rfl, rfl, rfl, rfl,
    rfl, fun j hj => resetByte_font c hj, fun a ha => resetByte_other c ha⟩
  · simp [State.getV, State.construct]
  · simp [State.construct]

end Sys2Proof.Machine
end

section
/-! SUPPORT. Frames over all instructions (10_state.md R12..R22): which kinds of instruction write which item. -/

namespace Sys2Proof.Machine

variable {s t : State} {i : Instr}

/-- A block of registers loaded from V0 up (R83). -/
theorem State.getV_loadRegs (bytes : List Byte) (r : Reg) :
    (s.loadRegs bytes).getV r = if h : r.val < bytes.length then bytes[r.val] else s.getV r := by
  simp [State.loadRegs, State.getV, regsLoaded_getElem]

theorem Leaves.cfg (h : Leaves s i t) : t.cfg = s.cfg := by cases h <;> rfl

theorem Leaves.keys (h : Leaves s i t) : t.keys = s.keys := by cases h <;> rfl

theorem Leaves.dt (h : Leaves s i t) (hi : ∀ x, i ≠ .ldDtVx x) : t.dt = s.dt := by
  cases h with
  | delay x => exact absurd rfl (hi x)
  | _ => rfl

theorem Leaves.st (h : Leaves s i t) (hi : ∀ x, i ≠ .ldStVx x) : t.st = s.st := by
  cases h with
  | sound x => exact absurd rfl (hi x)
  | _ => rfl

theorem Leaves.i_eq (h : Leaves s i t) (hld : ∀ nnn, i ≠ .ldI nnn) (hadd : ∀ x, i ≠ .addIVx x)
    (hfont : ∀ x, i ≠ .ldFVx x) : t.i = s.i := by
  cases h with
  | index w hi =>
    obtain ⟨nnn, rfl⟩ | ⟨x, rfl | rfl⟩ := hi
    · exact absurd rfl (hld nnn)
    · exact absurd rfl (hadd x)
    · exact absurd rfl (hfont x)
  | _ => rfl

theorem Leaves.stack (h : Leaves s i t) (hi : ∀ nnn, i ≠ .call nnn) : t.stack = s.stack := by
  cases h with
  | call nnn => exact absurd rfl (hi nnn)
  | _ => rfl

theorem Leaves.sp (h : Leaves s i t) (hcall : ∀ nnn, i ≠ .call nnn) (hret : i ≠ .ret) : t.sp = s.sp := by
  cases h with
  | call nnn => exact absurd rfl (hcall nnn)
  | ret => exact absurd rfl hret
  | _ => rfl

theorem Leaves.fb (h : Leaves s i t) (hcls : i ≠ .cls) (hdrw : ∀ x y n, i ≠ .drw x y n) : t.fb = s.fb := by
  cases h with
  | clear => exact absurd rfl hcls
  | draw x y n => exact absurd rfl (hdrw x y n)
  | _ => rfl

theorem Leaves.mem (h : Leaves s i t) (hbcd : ∀ x, i ≠ .ldBVx x) (hstore : ∀ x, i ≠ .ldMemVx x) :
    t.mem = s.mem := by
  cases h with
  | store cells hin hi =>
    obtain ⟨x, rfl | rfl⟩ := hi
    · exact absurd rfl (hbcd x)
    · exact absurd rfl (hstore x)
  | _ => rfl

theorem Leaves.wait_eq (h : Leaves s i t) (hi : ∀ x, i ≠ .ldVxK x) :
    t.waitActive = s.waitActive ∧ t.waitX = s.waitX ∧ t.waitSnap = s.waitSnap := by
  cases h with
  | wait x => exact absurd rfl (hi x)
  | _ => exact ⟨rfl, rfl, rfl⟩

theorem Leaves.rng (h : Leaves s i t) (hi : ∀ x nn, i ≠ .rnd x nn) :
    t.rngBytes = s.rngBytes ∧ t.rngDrawn = s.rngDrawn := by
  cases h with
  | rnd x nn => exact absurd rfl (hi x nn)
  | _ => exact ⟨rfl, rfl⟩

/-- FX0A alone suspends the block, and it alone reports halted (R92). -/
theorem Leaves.halted (h : Leaves s i t) (hs : s.effect.halted = s.waitActive) : t.effect.halted = t.waitActive := by
  cases h with
  | wait => rfl
  | _ => exact hs

/-- CLS and DRW alone report redraw (R85, R86). -/
theorem exec_redraw_iff (h : exec i s = .next t) (hs : s.effect.redraw = false) :
    t.effect.redraw = true ↔ i = .cls ∨ ∃ x y n, i = .drw x y n := by
  constructor
  · intro hredraw
    cases leaves_of_exec h with
    | clear => exact .inl rfl
    | draw x y n => exact .inr ⟨x, y, n, rfl⟩
    | _ => exact absurd (hs.symm.trans hredraw) (by decide)
  · rintro (rfl | ⟨x, y, n, rfl⟩)
    · cases h
      rfl
    · obtain ⟨as, -, h⟩ := orRaise_eq_next h
      cases h
      rfl

/-- A waiting step draws nothing. -/
theorem State.waitStep_display (s : State) : s.waitStep.fb = s.fb ∧ s.waitStep.effect.redraw = s.effect.redraw := by
  obtain ⟨-, e⟩ | ⟨k, -, e⟩ := s.waitStep_cases <;> rw [e] <;> exact ⟨rfl, rfl⟩

end Sys2Proof.Machine
end

section
/-! PROOFS. The obligations over all instructions (10_state.md, 30_encoding.md section 5, 40_flow.md section 1). -/

namespace Sys2Proof.Machine

/-- Settles O57: the frames of the kinds of instruction, item by item. -/
theorem onlyNamedInstructionsWriteEachItem : Obligations.OnlyNamedInstructionsWriteEachItem := by
  intro i s t hexec
  have h := leaves_of_exec hexec
  refine ⟨h.cfg, h.keys, h.dt, h.st, h.i_eq, h.stack, h.sp, h.fb, fun hbcd hstore => ?_, h.wait_eq, h.rng⟩
  have hmem := h.mem hbcd hstore
  exact ⟨hmem, fun a => by rw [State.readMem, State.readMem, h.cfg, hmem]⟩

/-- Settles O58: of the kinds of instruction, skips, jumps, CALL and RET write PC. -/
theorem onlyControlTransferMovesPc : Obligations.OnlyControlTransferMovesPc := by
  intro i s t hexec
  cases leaves_of_exec hexec with
  | skip taken hi =>
    cases taken with
    | false => exact .inl rfl
    | true => exact .inr (.inl ⟨rfl, hi⟩)
  | jump w hw hi =>
    obtain ⟨nnn, rfl | rfl⟩ := hi
    · exact .inr (.inr (.inr ⟨nnn, .inl rfl⟩))
    · exact .inr (.inr (.inr ⟨nnn, .inr (.inr rfl)⟩))
  | call nnn => exact .inr (.inr (.inr ⟨nnn, .inr (.inl rfl)⟩))
  | ret => exact .inr (.inr (.inl rfl))
  | _ => exact .inl rfl

/-- Settles O59: of the kinds of instruction that write registers, two write the flag, and the others write VF only
where they name it. -/
theorem vfChangesOnlyAsFlagOrDestination : Obligations.VFChangesOnlyAsFlagOrDestination := by
  intro i s t hexec hVF
  cases leaves_of_exec hexec with
  | register x b hi =>
    obtain rfl : x = 15 := by
      by_contra hx
      exact hVF (State.getV_setV_ne s b (Ne.symm hx))
    obtain ⟨nn, rfl | rfl⟩ | hreg | rfl := hi
    · exact .inr (.inl ⟨nn, .inl rfl⟩)
    · exact .inr (.inl ⟨nn, .inr (.inl rfl)⟩)
    · exact .inr (.inr (.inl hreg))
    · exact .inr (.inr (.inr (.inl rfl)))
  | resultFlag x b f hi =>
    obtain ⟨y, hi⟩ := hi
    exact .inl ⟨x, y, by tauto⟩
  | draw x y n => exact .inl ⟨x, y, by simp⟩
  | rnd x nn b =>
    obtain rfl : x = 15 := by
      by_contra hx
      exact hVF (State.getV_setV_ne s.drawRandom b (Ne.symm hx))
    exact .inr (.inl ⟨nn, .inr (.inr rfl)⟩)
  | load x bytes hlen =>
    obtain rfl : x = 15 := by
      by_contra hx
      have hne : x.val ≠ 15 := fun e => hx (Fin.ext e)
      exact hVF ((State.getV_loadRegs bytes 15).trans (dif_neg (show ¬15 < bytes.length by omega)))
    exact .inr (.inr (.inr (.inr rfl)))
  | _ => exact absurd rfl hVF

/-- Settles O19: a waiting step reports halted where it goes on waiting, and of the instructions FX0A alone suspends. -/
theorem haltedReportedExactlyWhenSuspended : Obligations.HaltedReportedExactlyWhenSuspended := by
  intro s t hs
  obtain ⟨-, rfl⟩ | ⟨hw, -, i, -, hexec⟩ := step_next_cases hs
  · obtain ⟨-, e⟩ | ⟨k, -, e⟩ := s.clearEffect.waitStep_cases <;> rw [e] <;> rfl
  · exact (leaves_of_exec hexec).halted hw.symm

/-- Settles O20: of the instructions CLS and DRW alone report redraw, and they alone write the framebuffer. -/
theorem redrawReportedExactlyByDisplayInstructions : Obligations.RedrawReportedExactlyByDisplayInstructions := by
  intro s t hs
  obtain ⟨hw, rfl⟩ | ⟨hw, hpc, i, hd, hexec⟩ := step_next_cases hs
  · obtain ⟨hfb, hredraw⟩ := s.clearEffect.waitStep_display
    refine ⟨iff_of_false (by rw [hredraw]; exact Bool.false_ne_true) ?_, fun h => absurd hfb h⟩
    rintro ⟨⟨hrun, -⟩, -⟩
    exact absurd (hw.symm.trans hrun) (by decide)
  · have hiff := exec_redraw_iff hexec rfl
    have hi : decodeWord s.wordAtPc = some i := hd
    refine ⟨?_, fun hfb => hiff.mpr ?_⟩
    · simp [hiff, hi, State.CanFetch, hw, hpc]
    · by_contra hnot
      obtain ⟨hcls, hdrw⟩ := not_or.mp hnot
      exact hfb ((leaves_of_exec hexec).fb hcls fun x y n e => hdrw ⟨x, y, n, e⟩)

end Sys2Proof.Machine
end

section
/-! SUPPORT. When an instruction raises (60_exceptions.md R94..R97), that none is refused (R103), and the answer to a
transaction that raises (R98). -/

namespace Sys2Proof.Machine

variable {s : State} {i : Instr} {f : Fault}

theorem exec_ret_eq_fault_iff : exec .ret s = .fault f ↔ s.sp = 0 ∧ f = .stackUnderflow := by
  rw [Fin.ext_iff]
  obtain ⟨hpos, -⟩ | ⟨hempty, -⟩ := s.popPc_cases
  · rw [exec_ret_of_pos hpos]
    exact iff_of_false nofun fun h => hpos.ne' h.1
  · rw [exec_ret_of_empty hempty]
    simp [hempty, eq_comm]

theorem exec_call_eq_fault_iff (nnn : Addr12) : exec (.call nnn) s = .fault f ↔ s.sp = 16 ∧ f = .stackOverflow := by
  rw [Fin.ext_iff]
  obtain ⟨hlt, -⟩ | ⟨hfull, -⟩ := s.pushPc_cases
  · rw [exec_call_of_lt nnn hlt]
    exact iff_of_false nofun fun h => hlt.ne h.1
  · rw [exec_call_of_full nnn hfull]
    simp [hfull, eq_comm]

/-- No data address, or none above 0xFFF, or the policy mask: the access is checked without an error. -/
theorem State.dataAddrs_of_fits {n : Nat} (h : s.DataInside n ∨ n = 0) : ∃ as, s.dataAddrs n = .ok as := by
  obtain h | rfl := h
  · exact State.dataAddrs_of_inside h
  · exact ⟨[], rfl⟩

theorem State.reject_of_not_inside {n : Nat} (h : ¬s.DataInside n) :
    s.cfg.dataAddrPolicy = .reject ∧ 0x1000 < s.i.toNat + n := by
  obtain ⟨hmask, hgt⟩ := not_or.mp h
  refine ⟨?_, Nat.lt_of_not_le hgt⟩
  cases hp : s.cfg.dataAddrPolicy with
  | mask => exact absurd hp hmask
  | reject => rfl

/-- An instruction that accesses `n` data addresses raises exactly where one of them is above 0xFFF under `reject`. -/
theorem access_eq_fault_iff (n : Nat) (k : List Nat → State) :
    orRaise (s.dataAddrs n) (fun as => .next (k as)) = .fault f ↔
      s.cfg.dataAddrPolicy = .reject ∧ 0 < n ∧ 0x1000 < s.i.toNat + n ∧
        f = .addressOutOfRange (max s.i.toNat 0x1000) := by
  by_cases hin : s.DataInside n ∨ n = 0
  · obtain ⟨as, has⟩ := State.dataAddrs_of_fits hin
    rw [has, orRaise_ok]
    refine iff_of_false nofun ?_
    rintro ⟨hreject, hn, hout, -⟩
    obtain (hmask | hle) | rfl := hin
    · exact absurd (hreject.symm.trans hmask) (by decide)
    · omega
    · omega
  · obtain ⟨hout, hn⟩ := not_or.mp hin
    obtain ⟨hreject, hgt⟩ := State.reject_of_not_inside hout
    rw [State.dataAddrs_of_not_inside (Nat.pos_of_ne_zero hn) hout, orRaise_error]
    simp [hreject, Nat.pos_of_ne_zero hn, hgt, eq_comm]

theorem access_ne_refused {α : Type} {e : Except Fault α} {k : α → State} {r : Refusal} :
    orRaise e (fun a => .next (k a)) ≠ .refused r := by
  intro h
  obtain ⟨a, -, h⟩ := orRaise_eq_refused h
  cases h

/-- Every instruction has a meaning, which refuses nothing. -/
theorem exec_ne_refused (i : Instr) (r : Refusal) : exec i s ≠ .refused r := by
  cases i with
  | ret | call | drw | ldBVx | ldMemVx | ldVxMem => exact access_ne_refused
  | _ => nofun

theorem step_ne_refused (r : Refusal) : step s ≠ .refused r := by
  intro h
  cases hw : s.waitActive with
  | true => simp [step, State.stepCycle, hw] at h
  | false =>
    rw [step_of_not_waiting hw] at h
    obtain ⟨op, -, h⟩ := orRaise_eq_refused h
    obtain ⟨i, -, h⟩ := orRaise_eq_refused h
    exact exec_ne_refused i r h

theorem respond_eq_error {isStep : Bool} {r : Result} (h : respond isStep r = .error f) : r = .fault f := by
  cases r with
  | next t => cases isStep <;> cases h
  | fault g => cases h; rfl
  | refused q => cases h

theorem settle_of_respond_error {isStep : Bool} {r : Result} (h : respond isStep r = .error f) : s.settle r = s := by
  rw [respond_eq_error h, State.settle_fault]

/-- A word that spells no instruction is the error of the step (R96). -/
theorem step_eq_unknownOpcode (hf : s.CanFetch) (hd : decodeWord s.wordAtPc = none) :
    step s = .fault (.unknownOpcode s.wordAtPc) := by
  obtain ⟨hw, hpc⟩ := hf
  have he : decodeOrError s.wordAtPc = .error (.unknownOpcode s.wordAtPc) := by simp [decodeOrError, hd]
  rw [step_of_not_waiting hw, State.runFetched, State.fetch_clearEffect, State.fetch_eq_ok hpc, orRaise_ok, he,
    orRaise_error]

end Sys2Proof.Machine
end

section
/-! PROOFS. The obligations of 60_exceptions.md about errors and refusals, and of 30_encoding.md about a step. -/

namespace Sys2Proof.Machine

/-- Settles O14: a word that decoded would match the row of its instruction. -/
theorem unknownWordRaisesUnknownOpcode : Obligations.UnknownWordRaisesUnknownOpcode := by
  intro s hf hrows
  refine step_eq_unknownOpcode hf ?_
  cases hd : decodeWord s.wordAtPc with
  | none => rfl
  | some i => exact absurd (match_of_decodeWord hd) (hrows i.row (mem_opcodeTable_iff.mpr ⟨i, rfl⟩))

/-- Settles O15: RET and CALL by the stack controller, the four accesses by their data addresses; no other
instruction raises, and none of them accesses memory. -/
theorem instructionsRaiseExactlyTheNamedErrors : Obligations.InstructionsRaiseExactlyTheNamedErrors := by
  intro i s f
  cases i with
  | ret => simp [exec_ret_eq_fault_iff, dataLength]
  | call nnn => simp [exec_call_eq_fault_iff, dataLength]
  | drw | ldBVx | ldMemVx | ldVxMem => exact (access_eq_fault_iff _ _).trans (by simp [dataLength])
  | _ => exact iff_of_false nofun (by simp [dataLength])

/-- Settles O12: fetch and decode succeed, and the rest of a step is the instruction. -/
theorem stepRunsDecodedInstruction : Obligations.StepRunsDecodedInstruction := fun _ _ hf hd => step_eq_exec hf hd

/-- Settles O16: a waiting step completes, and no instruction is refused. -/
theorem noStepIsRefused : Obligations.NoStepIsRefused := fun _ r => step_ne_refused r

/-- Settles O17: the response to an error comes with the state `settle` gives back, that of before. -/
theorem errorLeavesStateUnchanged : Obligations.ErrorLeavesStateUnchanged := by
  intro s x f h
  cases x with
  | step | setKey | load => exact settle_of_respond_error h
  | tickTimers | read => cases h

/-- Settles O18: a step clears the outputs before anything else. -/
theorem stepIgnoresEarlierOutputs : Obligations.StepIgnoresEarlierOutputs := fun _ _ => rfl

end Sys2Proof.Machine
end

section
/-! SUPPORT. The key wait by case (44_timers_keys.md R93), and a tick of the timers beside an instruction
(60_exceptions.md R105). -/

namespace Sys2Proof.Machine

variable {s t : State}

/-! ## The key wait -/

theorem step_of_waiting (h : s.waitActive = true) : step s = .next s.clearEffect.waitStep := by
  simp [step, State.stepCycle, h]

theorem State.waitStep_of_none (h : leastKey s.newlyPressed = none) :
    s.waitStep = (s.setWait true s.waitX s.keys).reportHalted := by
  simp only [State.waitStep, h]

theorem State.waitStep_of_some {k : Key} (h : leastKey s.newlyPressed = some k) :
    s.waitStep = (s.setV s.waitX (BitVec.ofNat 8 k.val)).setWait false s.waitX s.waitSnap := by
  simp only [State.waitStep, h]

theorem getLsbD_newlyPressed (s : State) (k : Key) :
    s.newlyPressed.getLsbD k.val = (s.keys.getLsbD k.val && !s.waitSnap.getLsbD k.val) := by
  simp [State.newlyPressed, k.isLt]

theorem leastKey_eq_none {ks : BitVec 16} (h : ∀ k : Key, ks.getLsbD k.val = false) : leastKey ks = none :=
  List.find?_eq_none.mpr fun k _ => Bool.eq_false_iff.mp (h k)

theorem leastKey_eq_some {ks : BitVec 16} {k : Key} (hk : ks.getLsbD k.val = true)
    (hlow : ∀ j : Key, j.val < k.val → ks.getLsbD j.val = false) : leastKey ks = some k := by
  cases h : leastKey ks with
  | none => exact absurd ((leastKey_none h k).symm.trans hk) (by decide)
  | some j =>
    obtain ⟨hj, hjlow⟩ := leastKey_some h
    obtain hlt | heq | hgt := Nat.lt_trichotomy j.val k.val
    · exact absurd ((hlow j hlt).symm.trans hj) (by decide)
    · rw [Fin.ext heq]
    · exact absurd ((hjlow k hgt).symm.trans hk) (by decide)

/-- A key's number as a byte. -/
theorem toNat_ofNat_key (k : Key) : (BitVec.ofNat 8 k.val).toNat = k.val := by
  have hk := k.isLt
  rw [BitVec.toNat_ofNat]
  omega

/-! ## A tick of the timers -/

/-- The timers count down to 0 and stay there (R105). -/
theorem toNat_countDown (b : Byte) : (countDown b).toNat = b.toNat - 1 := by
  unfold countDown
  split
  · subst_vars; rfl
  · have hb : b.toNat ≠ 0 := fun e => ‹b ≠ 0› (BitVec.eq_of_toNat_eq e)
    have hlt : b.toNat < 256 := b.isLt
    rw [BitVec.toNat_sub]
    change (256 - 1 + b.toNat) % 256 = _
    omega

theorem State.waitStep_tickTimers (s : State) : s.tickTimers.waitStep = s.waitStep.tickTimers := by
  obtain ⟨h, e⟩ | ⟨k, h, e⟩ := s.waitStep_cases <;> rw [e]
  · exact State.waitStep_of_none (s := s.tickTimers) h
  · exact State.waitStep_of_some (s := s.tickTimers) h

theorem orRaise_of_eq_ok {α : Type} {r : Except Fault α} {a : α} {k : α → Result} (h : r = .ok a) :
    orRaise r k = k a := by
  rw [h, orRaise_ok]

/-- An instruction that does not move a timer byte answers the ticked state from the ticked state. -/
theorem exec_tickTimers {i : Instr} (hread : ∀ x, i ≠ .ldVxDt x) (hdelay : ∀ x, i ≠ .ldDtVx x)
    (hsound : ∀ x, i ≠ .ldStVx x) (h : exec i s = .next t) : exec i s.tickTimers = .next t.tickTimers := by
  cases i with
  | ldVxDt x => exact absurd rfl (hread x)
  | ldDtVx x => exact absurd rfl (hdelay x)
  | ldStVx x => exact absurd rfl (hsound x)
  | ret =>
    obtain ⟨hpos, -⟩ | ⟨hempty, -⟩ := s.popPc_cases
    · cases (exec_ret_of_pos hpos).symm.trans h
      exact exec_ret_of_pos (s := s.tickTimers) hpos
    · cases (exec_ret_of_empty hempty).symm.trans h
  | call nnn =>
    obtain ⟨hlt, -⟩ | ⟨hfull, -⟩ := s.pushPc_cases
    · cases (exec_call_of_lt nnn hlt).symm.trans h
      exact exec_call_of_lt (s := s.tickTimers) nnn hlt
    · cases (exec_call_of_full nnn hfull).symm.trans h
  | drw | ldBVx | ldMemVx | ldVxMem =>
    obtain ⟨as, has, h⟩ := orRaise_eq_next h
    cases h
    exact orRaise_of_eq_ok has
  | _ => cases h; rfl

end Sys2Proof.Machine
end

section
/-! PROOFS. The obligations of 44_timers_keys.md section 3 and 60_exceptions.md section 3 about a waiting step and a
tick. -/

namespace Sys2Proof.Machine

/-- Settles O21: no key is newly pressed, so the wait goes on. -/
theorem waitingStepHoldsWithoutNewKey : Obligations.WaitingStepHoldsWithoutNewKey := by
  intro s hw hkeys
  have hnone : leastKey s.clearEffect.newlyPressed = none := by
    refine leastKey_eq_none fun k => (getLsbD_newlyPressed s k).trans ?_
    cases hk : s.keys.getLsbD k.val with
    | false => rfl
    | true => rw [hkeys k hk]; rfl
  rw [step_of_waiting hw, State.waitStep_of_none hnone]
  simp only [hw]
  rfl

/-- Settles O22: the key is the least of the newly pressed ones. -/
theorem waitingStepStoresLowestNewKey : Obligations.WaitingStepStoresLowestNewKey := by
  intro s k hw hk hsnap hlow
  have hsome : leastKey s.clearEffect.newlyPressed = some k := by
    refine leastKey_eq_some ((getLsbD_newlyPressed s k).trans ?_) fun j hj => (getLsbD_newlyPressed s j).trans ?_
    · rw [hk, hsnap]; rfl
    · cases hkj : s.keys.getLsbD j.val with
      | false => rfl
      | true => rw [hlow j hj hkj]; rfl
  refine ⟨_, (step_of_waiting hw).trans (congrArg _ (State.waitStep_of_some hsome)), ?_, fun r hr => ?_, rfl⟩
  · rw [State.getV_setWait]
    exact (congrArg BitVec.toNat (State.getV_setV_same _ _ _)).trans (toNat_ofNat_key k)
  · exact State.getV_setV_ne s.clearEffect _ hr

/-- Settles O51: both timers count down. -/
theorem tickCountsTimersDown : Obligations.TickCountsTimersDown :=
  fun s => ⟨s.tickTimers, rfl, toNat_countDown s.dt, toNat_countDown s.st, rfl⟩

/-- Settles O52: no other instruction and no waiting step reads or writes a timer. -/
theorem ticksCommuteWithOtherInstructions : Obligations.TicksCommuteWithOtherInstructions := by
  refine ⟨fun i s t hread hdelay hsound h => exec_tickTimers hread hdelay hsound h, fun s t hw h => ?_⟩
  cases (step_of_waiting hw).symm.trans h
  exact (step_of_waiting (s := s.tickTimers) hw).trans (congrArg _ s.clearEffect.waitStep_tickTimers)

end Sys2Proof.Machine
end

section
/-! SUPPORT. Runs of transactions (60_exceptions.md R109, R110): that no step of a run fails, by recursion on the run,
and a run that has ended at a jump to itself. -/

namespace Sys2Proof.Machine

variable {s t u : State} {f : Fault} {x : Transaction} {xs : List Transaction}

/-- No step of the run from `s` returns an error. -/
def NoStepFails (s : State) (xs : List Transaction) : Prop :=
  ∀ pre post g, xs = pre ++ .step :: post → step (drive s pre) ≠ .fault g

theorem noStepFails_nil (s : State) : NoStepFails s [] := by
  intro pre post g h
  simp at h

theorem noStepFails_cons : NoStepFails s (x :: xs) ↔ stepError s x = none ∧ NoStepFails (transact s x).1 xs := by
  constructor
  · intro h
    refine ⟨?_, fun pre post g e => h (x :: pre) post g (congrArg (x :: ·) e)⟩
    cases he : stepError s x with
    | none => rfl
    | some g =>
      obtain ⟨rfl, hs⟩ := stepError_eq_some.mp he
      exact absurd hs (h [] xs g rfl)
  · rintro ⟨hx, h⟩ pre post g e
    cases pre with
    | nil =>
      obtain ⟨rfl, -⟩ := List.cons.inj e
      intro hs
      exact absurd (hx.symm.trans (stepError_eq_some.mpr ⟨rfl, hs⟩)) nofun
    | cons y pre =>
      obtain ⟨rfl, hrest⟩ := List.cons.inj e
      exact h pre post g hrest

/-- A run has no first failing step exactly if no step of it fails. -/
theorem firstStepError_eq_none_iff : firstStepError s xs = none ↔ NoStepFails s xs := by
  induction xs generalizing s with
  | nil => exact iff_of_true rfl (noStepFails_nil s)
  | cons x xs ih =>
    rw [noStepFails_cons]
    cases he : stepError s x with
    | some g => simp [firstStepError_cons_some he]
    | none => simp [firstStepError_cons_none he, ih]

/-- The first failing step of a run: where the run splits, and that no step before it fails. -/
theorem firstStepError_eq_some_iff : firstStepError s xs = some (u, f) ↔
    ∃ pre post, xs = pre ++ .step :: post ∧ u = drive s pre ∧ step u = .fault f ∧ NoStepFails s pre := by
  induction xs generalizing s with
  | nil => simp
  | cons x xs ih =>
    cases he : stepError s x with
    | some g =>
      obtain ⟨rfl, hs⟩ := stepError_eq_some.mp he
      rw [firstStepError_cons_some he]
      constructor
      · intro h
        cases h
        exact ⟨[], xs, rfl, rfl, hs, noStepFails_nil _⟩
      · rintro ⟨pre, post, e, rfl, hf, hpre⟩
        cases pre with
        | nil => cases hs.symm.trans hf; rfl
        | cons y pre =>
          obtain ⟨rfl, -⟩ := List.cons.inj e
          exact absurd (he.symm.trans (noStepFails_cons.mp hpre).1) nofun
    | none =>
      rw [firstStepError_cons_none he, ih]
      constructor
      · rintro ⟨pre, post, rfl, rfl, hf, hpre⟩
        exact ⟨x :: pre, post, rfl, rfl, hf, noStepFails_cons.mpr ⟨he, hpre⟩⟩
      · rintro ⟨pre, post, e, rfl, hf, hpre⟩
        cases pre with
        | nil =>
          obtain ⟨rfl, -⟩ := List.cons.inj e
          exact absurd (he.symm.trans (stepError_eq_some.mpr ⟨rfl, hf⟩)) nofun
        | cons y pre =>
          obtain ⟨rfl, hrest⟩ := List.cons.inj e
          exact ⟨pre, post, hrest, rfl, hf, (noStepFails_cons.mp hpre).2⟩

/-! ## The end at a jump to itself -/

/-- A waiting step leaves PC and memory. -/
theorem State.waitStep_fetched (s : State) : s.waitStep.pc = s.pc ∧ s.waitStep.wordAtPc = s.wordAtPc := by
  obtain ⟨-, e⟩ | ⟨k, -, e⟩ := s.waitStep_cases <;> rw [e] <;> exact ⟨rfl, rfl⟩

/-- The address of a jump in the word it lies at is the whole of PC: memory ends at 0xFFF. -/
theorem zext16_setWidth {w : Word} (h : w.toNat ≤ 0xFFE) : zext16 (w.setWidth 12) = w := by
  apply BitVec.eq_of_toNat_eq
  rw [toNat_zext16, BitVec.toNat_setWidth]
  exact Nat.mod_eq_of_lt (Nat.lt_of_le_of_lt h (by decide))

/-- A jump to itself that is executed leaves the state as it is. -/
theorem State.EndedNormally.step_eq (h : s.EndedNormally) (hw : s.waitActive = false) :
    Machine.step s = .next s.clearEffect := by
  obtain ⟨hpc, hd⟩ := h
  rw [step_eq_exec ⟨hw, hpc⟩ hd, exec_jp, zext16_setWidth hpc]
  rfl

end Sys2Proof.Machine
end

section
/-! PROOFS. The obligations of 60_exceptions.md section 5, and the call and return of 40_flow.md section 2. -/

namespace Sys2Proof.Machine

/-- Settles O30: the jump's target is PC; a suspended block does not fetch and keeps PC and memory. -/
theorem jumpToSelfIdles : Obligations.JumpToSelfIdles := by
  intro s hend
  refine ⟨fun hw => hend.step_eq hw, ?_⟩
  cases hw : s.waitActive with
  | false => exact ⟨_, hend.step_eq hw, rfl, hend⟩
  | true =>
    obtain ⟨hpc, hword⟩ := s.clearEffect.waitStep_fetched
    refine ⟨_, step_of_waiting hw, hpc, ?_⟩
    rw [State.EndedNormally, hpc, hword]
    exact hend

/-- Settles O31: by recursion on the run, with the failing step at its head or in the rest. -/
theorem runEndsAtFirstFailingStep : Obligations.RunEndsAtFirstFailingStep := by
  intro s u f xs
  refine ⟨?_, ?_⟩
  · rw [firstStepError_eq_some_iff]
    simp only [transact_step_eq_error, NoStepFails]
  · have hend : EndedInError s xs ↔ firstStepError s xs ≠ none := by
      simp [EndedInError, Option.ne_none_iff_exists']
    rw [hend, ne_eq, firstStepError_eq_none_iff]
    simp only [NoStepFails, not_forall, not_not, exists_prop]

/-- Settles O26: the RET pops the entry the CALL pushed, and SP is decremented to where it was. -/
theorem retAfterCallReturnsToCaller : Obligations.RetAfterCallReturnsToCaller := by
  intro nnn s hlt
  refine ⟨_, exec_call_of_lt nnn hlt, fun t' hstack hsp => ?_⟩
  have hspval : t'.sp.val = s.sp.val + 1 := congrArg Fin.val hsp
  refine ⟨_, exec_ret_of_pos (s := t') (by omega), ?_, ?_, fun j hj hne => ?_, rfl⟩
  · simp [hstack, hspval]
  · exact Fin.ext (show t'.sp.val - 1 = s.sp.val by omega)
  · simp [hstack, hne.symm]

end Sys2Proof.Machine
end

section
/-! SUPPORT. What the host's transactions leave and read (60_exceptions.md R106, R107, R116). -/

namespace Sys2Proof.Machine

variable {s t : State}

/-! ## The configuration and the keypad -/

/-- A step writes neither the configuration nor the keypad latch (R6, R20). -/
theorem step_cfg_keys (h : step s = .next t) : t.cfg = s.cfg ∧ t.keys = s.keys := by
  obtain ⟨-, rfl⟩ | ⟨-, -, i, -, hexec⟩ := step_next_cases h
  · obtain ⟨-, e⟩ | ⟨k, -, e⟩ := s.clearEffect.waitStep_cases <;> rw [e] <;> exact ⟨rfl, rfl⟩
  · exact ⟨(leaves_of_exec hexec).cfg, (leaves_of_exec hexec).keys⟩

theorem State.setKey_of_le {k : Nat} (p : Bool) (h : k ≤ 15) :
    s.setKey k p =
      .next (s.setKeys (if p then s.keys ||| BitVec.twoPow 16 k else s.keys &&& ~~~(BitVec.twoPow 16 k))) :=
  if_pos h

/-- One bit of the latch written: the others are kept (R106). -/
theorem getLsbD_keySet (ks : BitVec 16) (k : Nat) (p : Bool) (j : Key) :
    (if p then ks ||| BitVec.twoPow 16 k else ks &&& ~~~(BitVec.twoPow 16 k)).getLsbD j.val =
      if j.val = k then p else ks.getLsbD j.val := by
  have hj := j.isLt
  have hbit : (BitVec.twoPow 16 k).getLsbD j.val = decide (j.val = k) := by
    rw [BitVec.getLsbD_twoPow, Bool.eq_iff_iff, Bool.and_eq_true, decide_eq_true_eq, decide_eq_true_eq,
      decide_eq_true_eq]
    omega
  cases p with
  | true => rw [if_pos rfl, BitVec.getLsbD_or, hbit]; by_cases hjk : j.val = k <;> simp [hjk]
  | false => rw [if_neg nofun, BitVec.getLsbD_and, BitVec.getLsbD_not, hbit]; by_cases hjk : j.val = k <;> simp [hjk]

/-! ## Loading an image -/

section Load

variable {image : List Byte}

/-- A loaded byte is read back (R116). -/
theorem State.readMem_load (hlen : image.length ≤ 3584) (hm : Memory.wf s.cfg s.mem = true) {j : Nat}
    (hj : j < image.length) : (s.writeCells (cellsFrom 0x200 image)).readMem (0x200 + j) = image[j] := by
  refine s.readMem_writeCells_mem _ hm (cellsFrom_image_inside hlen) ?_ (cellsFrom_mem 0x200 image j hj)
  rw [cellsFrom_map_fst]
  exact List.nodup_range'

/-- An address outside the image reads as before (R116). -/
theorem State.readMem_load_other {a : Nat} (h : a < 0x200 ∨ 0x200 + image.length ≤ a) :
    (s.writeCells (cellsFrom 0x200 image)).readMem a = s.readMem a := by
  refine s.readMem_writeCells_ne _ fun e he hea => ?_
  have hmem : e.1 ∈ (cellsFrom 0x200 image).map Prod.fst := List.mem_map.mpr ⟨e, he, rfl⟩
  rw [cellsFrom_map_fst, List.mem_range'_1] at hmem
  omega

theorem transact_load_of_le (hlen : image.length ≤ 3584) :
    transact s (.load image) = (s.writeCells (cellsFrom 0x200 image), .done) := by
  obtain ⟨-, e⟩ | ⟨hgt, -⟩ := s.load_cases image
  · rw [transact, e]; rfl
  · omega

theorem transact_load_of_gt (hlen : 3584 < image.length) :
    transact s (.load image) = (s, .error (.imageTooLarge image.length)) := by
  obtain ⟨hle, -⟩ | ⟨-, e⟩ := s.load_cases image
  · omega
  · rw [transact, e]; rfl

end Load

/-- A constructed block with no image has the word 0 at PC: the font ends below 0x200. -/
theorem wordAtPc_construct (c : Config) (rng : List Byte) : (State.construct c rng).wordAtPc = 0 := by
  have hfont := c.fontBase.isLt
  have hzero {a : Nat} (ha : 0x200 ≤ a) : (State.construct c rng).readMem a = 0 :=
    resetByte_other c (.inr (by omega))
  calc (State.construct c rng).wordAtPc = Word.ofBytes 0 0 :=
        congrArg₂ Word.ofBytes (hzero (a := 0x200) (by decide)) (hzero (a := 0x201) (by decide))
    _ = 0 := by decide

/-! ## The read port -/

/-- A list read by rising index, indexed by the numbers below its length. -/
theorem map_range_eq_ofFn {α : Type} (f : Nat → α) (n : Nat) :
    (List.range n).map f = List.ofFn fun k : Fin n => f k.val := by
  apply List.ext_getElem <;> simp

theorem map_toList_eq_ofFn {α β : Type} {n : Nat} (v : Vector α n) (f : α → β) :
    v.toList.map f = List.ofFn fun k : Fin n => f v[k.val] := by
  apply List.ext_getElem <;> simp

theorem length_readFramebuffer (s : State) : s.readFramebuffer.length = 2048 := by
  simp [State.readFramebuffer]

/-- Pixel (x, y) is at index x + 64 * y (D39). -/
theorem getElem?_readFramebuffer (s : State) (x : Col) (y : Line) :
    s.readFramebuffer[x.val + 64 * y.val]? = some (bitNat (pixel s.fb x y)) := by
  have hx := x.isLt
  have hy := y.isLt
  have hcol : wrapCol (x.val + 64 * y.val) = x := Fin.ext (show (x.val + 64 * y.val) % 64 = x.val by omega)
  have hline : wrapLine ((x.val + 64 * y.val) / 64) = y :=
    Fin.ext (show (x.val + 64 * y.val) / 64 % 32 = y.val by omega)
  rw [State.readFramebuffer, List.getElem?_map, List.getElem?_range (by omega), Option.map_some, hcol, hline]

end Sys2Proof.Machine
end

section
/-! PROOFS. The obligations of 60_exceptions.md section 4 and 70_reset_and_hazards.md section 2: the host's
transactions. -/

namespace Sys2Proof.Machine

/-- Settles O60: a step writes neither; set_key writes the latch alone, and load memory alone. -/
theorem onlySetKeyChangesKeypad : Obligations.OnlySetKeyChangesKeypad := by
  intro s x
  cases x with
  | step =>
    change (s.settle (step s)).cfg = s.cfg ∧ (_ → (s.settle (step s)).keys = s.keys)
    cases hs : step s with
    | next t => exact ⟨(step_cfg_keys hs).1, fun _ => (step_cfg_keys hs).2⟩
    | fault | refused => exact ⟨rfl, fun _ => rfl⟩
  | setKey k p =>
    refine ⟨?_, fun h => absurd rfl (h k p)⟩
    change (s.settle (s.setKey k p)).cfg = s.cfg
    obtain ⟨ks, e⟩ | e := s.setKey_cases k p <;> rw [e] <;> rfl
  | load image =>
    change (s.settle (s.load image)).cfg = s.cfg ∧ (_ → (s.settle (s.load image)).keys = s.keys)
    obtain ⟨-, e⟩ | ⟨-, e⟩ := s.load_cases image <;> rw [e] <;> exact ⟨rfl, fun _ => rfl⟩
  | tickTimers | read => exact ⟨rfl, fun _ => rfl⟩

/-- Settles O53: one bit of the latch is set or cleared. -/
theorem setKeyWritesOneKey : Obligations.SetKeyWritesOneKey := by
  intro k p s
  constructor
  · intro hk
    refine ⟨_, by rw [transact, State.setKey_of_le p hk]; rfl, rfl, getLsbD_keySet s.keys k p⟩
  · intro hk
    have hrefused : s.setKey k p = .refused (.keySymbolOutOfRange k) := if_neg (by omega)
    rw [transact, hrefused]
    rfl

/-- Settles O54: the image is a run of consecutive cells, all in memory where it is not too long. -/
theorem loadCopiesImage : Obligations.LoadCopiesImage := by
  intro image s
  refine ⟨transact_load_of_gt, fun hlen hm => ?_⟩
  exact ⟨_, transact_load_of_le hlen, fun j hj => State.readMem_load hlen hm hj,
    fun a ha => State.readMem_load_other ha, rfl⟩

/-- Settles O55: memory at PC reads 0 after construction, and the image's first two bytes after load. -/
theorem firstStepRunsLoadedImage : Obligations.FirstStepRunsLoadedImage := by
  intro c rng
  have hpc : (State.construct c rng).pc.toNat ≤ 0xFFE := show (0x200#16).toNat ≤ 0xFFE by decide
  constructor
  · have hword := wordAtPc_construct c rng
    have hnone : decodeWord (State.construct c rng).wordAtPc = none := by rw [hword]; decide
    rw [step_eq_unknownOpcode ⟨rfl, hpc⟩ hnone, hword]
  · intro hi lo rest i hlen hd
    refine ⟨_, transact_load_of_le hlen, step_eq_exec ⟨rfl, hpc⟩ ?_⟩
    have hmem := (inv_construct c rng).memory
    have hhi := State.readMem_load (image := hi :: lo :: rest) hlen hmem (j := 0) (by simp)
    have hlo := State.readMem_load (image := hi :: lo :: rest) hlen hmem (j := 1) (by simp)
    exact (congrArg decodeWord (congrArg₂ Word.ofBytes hhi hlo)).trans hd

/-- Settles O56: each field read as a list by rising index. -/
theorem readPortChangesNothing : Obligations.ReadPortChangesNothing := by
  intro s
  refine ⟨?_, rfl, rfl, ?_, rfl, rfl, rfl, ⟨_, rfl, length_readFramebuffer s, getElem?_readFramebuffer s⟩,
    ?_, ?_, rfl, rfl, rfl⟩
  · exact congrArg (s, Response.value ·) (map_toList_eq_ofFn s.v BitVec.toNat)
  · exact congrArg (s, Response.value ·) (map_toList_eq_ofFn s.stack BitVec.toNat)
  · exact congrArg (s, Response.value ·) (map_range_eq_ofFn (fun k => bitNat (s.keys.getLsbD k)) 16)
  · exact congrArg (s, Response.value ·) (map_range_eq_ofFn (fun a => (s.readMem a).toNat) memSize)

end Sys2Proof.Machine
end

section
/-! SUPPORT. The shift source, the random byte, the keypad test and the register blocks (41_alu.md sections 3 and 4,
42_index_memory.md section 2, 44_timers_keys.md section 2). -/

namespace Sys2Proof.Machine

variable (s : State)

/-! ## Shifts (R74, R76) -/

theorem State.shiftSource_eq (x y : Reg) :
    s.shiftSource x y = if s.cfg.shiftSource = .vx then s.getV x else s.getV y := by
  rw [State.shiftSource]
  cases s.cfg.shiftSource <;> rfl

theorem toNat_flagByte (b : Bool) : (flagByte b).toNat = b.toNat := by cases b <;> rfl

theorem toNat_shrFlag (b : Byte) : (flagByte (shrFlag b)).toNat = b.toNat % 2 := by
  rw [toNat_flagByte, shrFlag, BitVec.getLsbD, Nat.toNat_testBit, pow_zero, Nat.div_one]

theorem toNat_shlFlag (b : Byte) : (flagByte (shlFlag b)).toNat = b.toNat / 128 := by
  have hb : b.toNat < 256 := b.isLt
  rw [toNat_flagByte, shlFlag, BitVec.getLsbD, Nat.toNat_testBit]
  omega

/-- The result of a shift with the bit shifted out, whichever the source. -/
theorem setResultFlag_shift (x : Reg) (b : Byte) (f : Bool) :
    (x ≠ 15 → ((s.setResultFlag x b f).getV x).toNat = b.toNat) ∧
      ((s.setResultFlag x b f).getV 15).toNat = (flagByte f).toNat ∧
      OnlyRegistersChange [x, 15] s (s.setResultFlag x b f) :=
  ⟨fun hx => by rw [State.getV_setResultFlag_result s b f hx], by rw [State.getV_setResultFlag_VF],
    onlyRegistersChange_setResultFlag s x b f⟩

/-! ## The random byte (R77) -/

variable {s}

theorem State.nextRandom_of_cons {b : Byte} {rest : List Byte} (h : s.rngBytes = b :: rest) : s.nextRandom = b := by
  rw [State.nextRandom, h]

theorem State.nextRandom_of_nil (h : s.rngBytes = []) : s.nextRandom = Config.freeByte s.rngDrawn := by
  rw [State.nextRandom, h]

/-! ## The keypad test (R90, R91) -/

theorem State.keyPressed_iff (b : Byte) :
    s.keyPressed b = true ↔ ∃ k : Key, b.toNat = k.val ∧ s.keys.getLsbD k.val = true := by
  rw [State.keyPressed, Bool.and_eq_true, decide_eq_true_eq]
  constructor
  · rintro ⟨hle, hk⟩
    exact ⟨⟨b.toNat, Nat.lt_succ_of_le hle⟩, rfl, hk⟩
  · rintro ⟨k, hb, hk⟩
    rw [hb]
    exact ⟨Nat.le_of_lt_succ k.isLt, hk⟩

/-! ## Register blocks (R82, R83) -/

theorem State.length_firstRegs (x : Reg) : (s.firstRegs (x.val + 1)).length = x.val + 1 := by
  have hx := x.isLt
  simp [State.firstRegs]

theorem State.getElem_firstRegs {n : Nat} (r : Reg) (h : r.val < (s.firstRegs n).length) :
    (s.firstRegs n)[r.val] = s.getV r := by
  simp [State.firstRegs, State.getV]

theorem exec_ldMemVx {x : Reg} {as : List Nat} (has : s.dataAddrs (x.val + 1) = .ok as) :
    exec (.ldMemVx x) s = .next (s.writeCells (as.zip (s.firstRegs (x.val + 1)))) := orRaise_of_eq_ok has

theorem exec_ldVxMem {x : Reg} {as : List Nat} (has : s.dataAddrs (x.val + 1) = .ok as) :
    exec (.ldVxMem x) s = .next (s.loadRegs (s.readCells as)) := orRaise_of_eq_ok has

theorem exec_eq_fault_of_outside {i : Instr} (hn : 0 < dataLength i) (hout : ¬s.DataInside (dataLength i)) :
    exec i s = .fault (.addressOutOfRange (max s.i.toNat 0x1000)) := by
  obtain ⟨hreject, hgt⟩ := State.reject_of_not_inside hout
  exact (instructionsRaiseExactlyTheNamedErrors i s _).mpr (.inr (.inr ⟨hreject, hn, hgt, rfl⟩))

/-- Every data address of an access that is inside is effective. -/
theorem State.DataInside.effAddr {n k : Nat} (h : s.DataInside n) (hk : k < n) :
    ∃ a, effAddr s.cfg.dataAddrPolicy (s.i.toNat + k) = .ok a := by
  obtain ⟨as, has⟩ := State.dataAddrs_of_inside h
  exact ⟨_, effAddr_of_effAddrs has (effAddrs_length has ▸ hk)⟩

section Block

variable {x : Reg} {as : List Nat} (has : s.dataAddrs (x.val + 1) = .ok as)

include has

/-- Register r of V0..VX is read back at the effective address of I + r. -/
theorem State.readMem_storedRegs {r : Reg} {a : Nat} (hm : Memory.wf s.cfg s.mem = true) (hr : r.val ≤ x.val)
    (ha : effAddr s.cfg.dataAddrPolicy (s.i.toNat + r.val) = .ok a) :
    (s.writeCells (as.zip (s.firstRegs (x.val + 1)))).readMem a = s.getV r := by
  have hx := x.isLt
  have hk : r.val < (s.firstRegs (x.val + 1)).length := by
    rw [State.length_firstRegs]; omega
  rw [State.readMem_store has (State.length_firstRegs x) hm (by simp only [memSize]; omega) hk ha,
    State.getElem_firstRegs r hk]

/-- Register r of V0..VX is loaded from the effective address of I + r. -/
theorem State.getV_loadedRegs {r : Reg} {a : Nat} (hr : r.val ≤ x.val)
    (ha : effAddr s.cfg.dataAddrPolicy (s.i.toNat + r.val) = .ok a) :
    (s.loadRegs (s.readCells as)).getV r = s.readMem a := by
  have hk : r.val < as.length := effAddrs_length has ▸ Nat.lt_succ_of_le hr
  obtain rfl : as[r.val] = a := Except.ok.inj ((effAddr_of_effAddrs has hk).symm.trans ha)
  simp [State.getV_loadRegs, State.readCells, hk]

theorem State.getV_loadedRegs_above {r : Reg} (hr : x.val < r.val) :
    (s.loadRegs (s.readCells as)).getV r = s.getV r := by
  have hk : ¬r.val < as.length := by rw [effAddrs_length has]; omega
  simp [State.getV_loadRegs, State.readCells, hk]

end Block

end Sys2Proof.Machine
end

section
/-! PROOFS. The obligations about single instructions: 40_flow.md (BNNN), 41_alu.md (logic, shifts, RND),
42_index_memory.md (FX29, FX55, FX65), 43_display.md (CLS) and 44_timers_keys.md. -/

namespace Sys2Proof.Machine

/-- Settles O29: the two settings of the base; the sum fits 16 bits. -/
theorem jpV0AddsBaseRegister : Obligations.JpV0AddsBaseRegister := by
  intro nnn s
  refine ⟨decodeWord_encode (.jpV0 nnn) rfl, _, rfl, fun hbase => ?_, fun hbase x hx => ?_, rfl⟩
  · rw [State.setPc_pc, toNat_jumpTarget, State.jumpBase, hbase]
  · have hreg : jumpReg nnn = x := by
      have hn : nnn.toNat < 4096 := nnn.isLt
      apply Fin.ext
      simp only [jumpReg, BitVec.val_toFin, BitVec.extractLsb'_toNat, Nat.shiftRight_eq_div_pow]
      omega
    rw [State.setPc_pc, toNat_jumpTarget, State.jumpBase, hbase, hreg]

/-- Settles O33: each is one register write, whose bits are those of the operation. -/
theorem logicInstructionsCombineBits : Obligations.LogicInstructionsCombineBits := by
  intro x y s
  simp only [append_eq_wordRegReg]
  refine ⟨decodeWord_encode (.orReg x y) rfl, decodeWord_encode (.andReg x y) rfl, decodeWord_encode (.xorReg x y) rfl,
    ⟨_, rfl, onlyRegistersChange_setV s x _, fun j => ?_⟩, ⟨_, rfl, onlyRegistersChange_setV s x _, fun j => ?_⟩,
    ⟨_, rfl, onlyRegistersChange_setV s x _, fun j => ?_⟩⟩
  · rw [State.getV_setV_same, BitVec.getLsbD_or]
  · rw [State.getV_setV_same, BitVec.getLsbD_and]
  · rw [State.getV_setV_same, BitVec.getLsbD_xor]

/-- Settles O36: the source of both settings is halved or doubled, and its outer bit is the flag. -/
theorem shiftsMoveOneBitIntoVF : Obligations.ShiftsMoveOneBitIntoVF := by
  intro x y s src hsrc
  rw [← State.shiftSource_eq] at hsrc
  subst hsrc
  simp only [append_eq_wordRegReg]
  refine ⟨decodeWord_encode (.shr x y) rfl, decodeWord_encode (.shl x y) rfl, ⟨_, rfl, ?_⟩, ⟨_, rfl, ?_⟩⟩
  · have h := setResultFlag_shift s x (s.shiftSource x y >>> 1) (shrFlag (s.shiftSource x y))
    rwa [toNat_shrFlag, BitVec.toNat_ushiftRight, Nat.shiftRight_eq_div_pow, pow_one] at h
  · have h := setResultFlag_shift s x (s.shiftSource x y <<< 1) (shlFlag (s.shiftSource x y))
    rwa [toNat_shlFlag, BitVec.toNat_shiftLeft, Nat.shiftLeft_eq, pow_one] at h

/-- Settles O37: the byte drawn is the first known one or the free one; its bits outside NN are masked off. -/
theorem rndMasksOneDrawnByte : Obligations.RndMasksOneDrawnByte := by
  intro x nn s
  have hx : (s.drawRandom.setV x (s.nextRandom &&& nn)).getV x = s.nextRandom &&& nn := State.getV_setV_same _ _ _
  refine ⟨decodeWord_encode (.rnd x nn) rfl, _, rfl, fun b rest h => ⟨?_, ?_⟩, fun h => ⟨?_, ?_⟩, fun j hj => ?_, rfl,
    fun r hr => State.getV_setV_ne s.drawRandom _ hr, rfl⟩
  · rw [hx, State.nextRandom_of_cons h]
  · exact congrArg List.tail h
  · rw [hx, State.nextRandom_of_nil h]
  · exact congrArg List.tail h
  · rw [hx, BitVec.getLsbD_and, hj, Bool.and_false]

/-- Settles O39: the glyph's address fits 16 bits, and memory there reads as the font. -/
theorem ldFPointsAtGlyph : Obligations.LdFPointsAtGlyph := by
  intro x s
  have hfont := s.cfg.fontBase.isLt
  have hv : (s.getV x).toNat < 256 := (s.getV x).isLt
  have haddr : (glyphAddr s.cfg (s.getV x)).toNat = s.cfg.fontBase.val + 5 * (s.getV x).toNat := by
    rw [glyphAddr, BitVec.toNat_ofNat]
    omega
  refine ⟨decodeWord_encode (.ldFVx x) rfl, _, rfl, haddr, rfl, fun hreset k hk h => ?_⟩
  rw [State.readMem_setI, State.setI_i, haddr, Nat.add_assoc, hreset _ (by omega) (by omega), resetByte_font _ h]

/-- Settles O41: the registers are a run of bytes stored at the data addresses. -/
theorem ldMemVxStoresRegisters : Obligations.LdMemVxStoresRegisters := by
  intro x s
  refine ⟨decodeWord_encode (.ldMemVx x) rfl, exec_eq_fault_of_outside (i := .ldMemVx x) (Nat.succ_pos _),
    fun hm hin => ?_⟩
  obtain ⟨as, has⟩ := State.dataAddrs_of_inside hin
  exact ⟨_, exec_ldMemVx has, fun r a hr ha => State.readMem_storedRegs has hm hr ha,
    fun a ha => State.readMem_store_other has fun k hk => ha k (Nat.le_of_lt_succ hk), rfl⟩

/-- Settles O42: the bytes read at the data addresses go to the registers from V0 up. -/
theorem ldVxMemLoadsRegisters : Obligations.LdVxMemLoadsRegisters := by
  intro x s
  refine ⟨decodeWord_encode (.ldVxMem x) rfl, exec_eq_fault_of_outside (i := .ldVxMem x) (Nat.succ_pos _),
    fun hin => ?_⟩
  obtain ⟨as, has⟩ := State.dataAddrs_of_inside hin
  exact ⟨_, exec_ldVxMem has, fun r a hr ha => State.getV_loadedRegs has hr ha,
    fun r hr => State.getV_loadedRegs_above has hr, rfl⟩

/-- Settles O43: both accesses have the data addresses of one I, so each register is read back where it was stored. -/
theorem loadAfterStoreRestoresRegisters : Obligations.LoadAfterStoreRestoresRegisters := by
  intro x s v' hm hin
  obtain ⟨as, has⟩ := State.dataAddrs_of_inside hin
  refine ⟨_, _, exec_ldMemVx has, exec_ldVxMem (as := as) has, fun r hr => ?_⟩
  obtain ⟨a, ha⟩ := hin.effAddr (Nat.lt_succ_of_le hr)
  rw [← State.readMem_storedRegs has hm hr ha]
  exact State.getV_loadedRegs
    (s := { s.writeCells (as.zip (s.firstRegs (x.val + 1))) with v := v' }) (x := x) has hr ha

/-- Settles O44: the two bytes at PC are those of the two registers. -/
theorem storedBytesAreFetched : Obligations.StoredBytesAreFetched := by
  intro x r r' s t hm hnext hr' hin hpc hexec
  obtain ⟨as, has, h⟩ := orRaise_eq_next hexec
  have ht : t = s.writeCells (as.zip (s.firstRegs (x.val + 1))) := (Host.Outcome.next.inj h).symm
  have hread {q : Reg} (hq : q.val ≤ r'.val) : t.readMem (s.i.toNat + q.val) = s.getV q := by
    rw [ht]
    exact State.readMem_storedRegs has hm (by omega) (if_pos (by omega))
  have htpc : t.pc.toNat = s.i.toNat + r.val := by rw [ht]; exact hpc
  have hhi : t.readMem t.pc.toNat = s.getV r := by rw [htpc, hread (by omega)]
  have hlo : t.readMem (t.pc.toNat + 1) = s.getV r' := by rw [htpc, Nat.add_assoc, hnext, hread le_rfl]
  rw [State.fetch_eq_ok (by omega), State.wordAtPc, hhi, hlo]

/-- Settles O45: the blank screen has every pixel 0. -/
theorem clsClearsEveryPixel : Obligations.ClsClearsEveryPixel :=
  fun _ => ⟨by decide, _, rfl, pixel_blankScreen, rfl⟩

/-- Settles O48: one register write, and two timer writes. -/
theorem timerInstructionsMoveBytes : Obligations.TimerInstructionsMoveBytes := by
  intro x s
  exact ⟨decodeWord_encode (.ldVxDt x) rfl, decodeWord_encode (.ldDtVx x) rfl, decodeWord_encode (.ldStVx x) rfl,
    ⟨_, rfl, State.getV_setV_same s x _, onlyRegistersChange_setV s x _⟩, rfl, rfl⟩

/-- Settles O49: the test is whether V[X] names a pressed key. -/
theorem keySkipsTestKeypad : Obligations.KeySkipsTestKeypad := by
  intro x s
  have hskp : exec (.skp x) s = .next (s.skipIf (s.keyPressed (s.getV x))) := rfl
  have hsknp : exec (.sknp x) s = .next (s.skipIf (!s.keyPressed (s.getV x))) := rfl
  refine ⟨decodeWord_encode (.skp x) rfl, decodeWord_encode (.sknp x) rfl, fun h => ?_, fun h => ?_⟩
  · have hpressed := State.keyPressed_iff (s.getV x) |>.mpr h
    rw [hskp, hsknp, hpressed]
    exact ⟨rfl, rfl⟩
  · have hreleased := Bool.eq_false_iff.mpr (mt (State.keyPressed_iff (s.getV x)).mp h)
    rw [hskp, hsknp, hreleased]
    exact ⟨rfl, rfl⟩

/-- Settles O50: the suspended state is entered at once. -/
theorem ldVxKSuspends : Obligations.LdVxKSuspends :=
  fun x _ => ⟨decodeWord_encode (.ldVxK x) rfl, rfl⟩

end Sys2Proof.Machine
end

section
/-! SUPPORT. The XOR-blit unit as a list of pixels (43_display.md R84, R86): a sprite of at most 32 rows lands on no
pixel twice, so each of its pixels is flipped once and the collision is with the framebuffer of before. -/

namespace Sys2Proof.Machine

/-! ## One pixel -/

theorem pixel_flipPixel (fb : Framebuffer) (x px : Col) (y py : Line) :
    pixel (flipPixel fb x y) px py = (pixel fb px py ^^ decide ((px, py) = (x, y))) := by
  simp only [pixel, flipPixel, Vector.getElem_set]
  by_cases hy : y.val = py.val
  · obtain rfl : y = py := Fin.ext hy
    simp [Fin.ext_iff, eq_comm]
  · have hne : py ≠ y := fun e => hy (congrArg Fin.val e.symm)
    simp [hy, hne]

/-- Equal pixels are equal framebuffers. -/
theorem framebuffer_ext {f g : Framebuffer} (h : ∀ x y, pixel f x y = pixel g x y) : f = g := by
  apply Vector.ext
  intro y hy
  apply BitVec.eq_of_getLsbD_eq
  intro x hx
  exact h ⟨x, hx⟩ ⟨y, hy⟩

/-! ## A list of pixels -/

/-- Pixels flipped one after another, with the collision bit so far. -/
def blitPixels (ps : List (Col × Line)) (d : Framebuffer × Bool) : Framebuffer × Bool :=
  ps.foldl (fun d p => blitPixel p.1 p.2 d) d

theorem blitPixels_append (ps qs : List (Col × Line)) (d : Framebuffer × Bool) :
    blitPixels (ps ++ qs) d = blitPixels qs (blitPixels ps d) := List.foldl_append

/-- Of pixels that all differ, each is flipped once. -/
theorem pixel_blitPixels {ps : List (Col × Line)} (hnodup : ps.Nodup) (d : Framebuffer × Bool) (px : Col) (py : Line) :
    pixel (blitPixels ps d).1 px py = (pixel d.1 px py ^^ decide ((px, py) ∈ ps)) := by
  induction ps generalizing d with
  | nil => simp [blitPixels]
  | cons p ps ih =>
    obtain ⟨hp, hps⟩ := List.nodup_cons.mp hnodup
    refine (ih hps (blitPixel p.1 p.2 d)).trans ?_
    simp only [blitPixel, pixel_flipPixel, List.mem_cons]
    by_cases he : (px, py) = p
    · simp [he, hp]
    · simp [he]

/-- Of pixels that all differ, the collision is with a pixel that was 1 before. -/
theorem collision_blitPixels {ps : List (Col × Line)} (hnodup : ps.Nodup) (d : Framebuffer × Bool) :
    (blitPixels ps d).2 = true ↔ d.2 = true ∨ ∃ p ∈ ps, pixel d.1 p.1 p.2 = true := by
  induction ps generalizing d with
  | nil => simp [blitPixels]
  | cons p ps ih =>
    obtain ⟨hp, hps⟩ := List.nodup_cons.mp hnodup
    have hkept : ∀ q ∈ ps, pixel (flipPixel d.1 p.1 p.2) q.1 q.2 = pixel d.1 q.1 q.2 := by
      intro q hq
      have hne : q ≠ p := fun e => hp (e ▸ hq)
      simp [pixel_flipPixel, hne]
    refine (ih hps (blitPixel p.1 p.2 d)).trans ?_
    simp only [blitPixel, Bool.or_eq_true, List.exists_mem_cons_iff, or_assoc]
    exact or_congr_right (or_congr_right (exists_congr fun q => and_congr_right fun hq => by rw [hkept q hq]))

/-! ## The pixels of a sprite -/

/-- The pixels under the 1 bits of one sprite row, in drawing order. -/
def rowPixels (b : Byte) (x0 : Nat) (y : Line) : List (Col × Line) :=
  ((List.range 8).filter fun c => b.getLsbD (7 - c)).map fun c => (wrapCol (x0 + c), y)

/-- The pixels under the 1 bits of a sprite, in drawing order. -/
def spritePixels (x0 : Nat) : List Byte → Nat → List (Col × Line)
  | [], _ => []
  | b :: rest, y => rowPixels b x0 (wrapLine y) ++ spritePixels x0 rest (y + 1)

theorem blitCols_eq_blitPixels (b : Byte) (x0 : Nat) (y : Line) (d : Framebuffer × Bool) :
    blitCols b x0 y 8 d = blitPixels (rowPixels b x0 y) d := by
  rw [blitPixels, rowPixels, List.foldl_map, List.foldl_filter]
  rfl

theorem blitRows_eq_blitPixels (x0 : Nat) (rows : List Byte) (y : Nat) (d : Framebuffer × Bool) :
    blitRows x0 rows y d = blitPixels (spritePixels x0 rows y) d := by
  induction rows generalizing y d with
  | nil => rfl
  | cons b rest ih => rw [blitRows, ih, blitCols_eq_blitPixels, spritePixels, blitPixels_append]

theorem mem_rowPixels {b : Byte} {x0 : Nat} {y py : Line} {px : Col} :
    (px, py) ∈ rowPixels b x0 y ↔
      ∃ c, c < 8 ∧ b.getLsbD (7 - c) = true ∧ px.val = (x0 + c) % 64 ∧ py = y := by
  simp only [rowPixels, List.mem_map, List.mem_filter, List.mem_range, Prod.mk.injEq, Fin.ext_iff, wrapCol,
    Fin.val_ofNat, and_assoc, eq_comm]

theorem mem_spritePixels {x0 : Nat} {rows : List Byte} {y : Nat} {px : Col} {py : Line} :
    (px, py) ∈ spritePixels x0 rows y ↔
      ∃ r, ∃ h : r < rows.length, ∃ c, c < 8 ∧ rows[r].getLsbD (7 - c) = true ∧ px.val = (x0 + c) % 64 ∧
        py.val = (y + r) % 32 := by
  induction rows generalizing y with
  | nil => simp [spritePixels]
  | cons b rest ih =>
    rw [spritePixels, List.mem_append, mem_rowPixels, ih]
    constructor
    · rintro (⟨c, hc, hb, hx, rfl⟩ | ⟨r, h, c, hc, hb, hx, hy⟩)
      · exact ⟨0, Nat.succ_pos _, c, hc, hb, hx, rfl⟩
      · exact ⟨r + 1, Nat.succ_lt_succ h, c, hc, hb, hx, by omega⟩
    · rintro ⟨r, h, c, hc, hb, hx, hy⟩
      cases r with
      | zero => exact .inl ⟨c, hc, hb, hx, Fin.ext hy⟩
      | succ r =>
        exact .inr ⟨r, Nat.lt_of_succ_lt_succ h, c, hc, hb, hx, by omega⟩

theorem nodup_rowPixels (b : Byte) (x0 : Nat) (y : Line) : (rowPixels b x0 y).Nodup := by
  refine List.Nodup.map_on (fun c hc c' hc' heq => ?_) (List.nodup_range.filter _)
  have hlt : c < 8 := List.mem_range.mp (List.mem_filter.mp hc).1
  have hlt' : c' < 8 := List.mem_range.mp (List.mem_filter.mp hc').1
  have hcol : (x0 + c) % 64 = (x0 + c') % 64 := congrArg (fun p : Col × Line => p.1.val) heq
  omega

/-- No two rows of a sprite of at most 32 lie on one line. -/
theorem nodup_spritePixels (x0 : Nat) {rows : List Byte} (y : Nat) (h : rows.length ≤ 32) :
    (spritePixels x0 rows y).Nodup := by
  induction rows generalizing y with
  | nil => exact List.nodup_nil
  | cons b rest ih =>
    rw [List.length_cons] at h
    refine List.Nodup.append (nodup_rowPixels b x0 _) (ih (y + 1) (by omega)) ?_
    rintro ⟨px, py⟩ hrow hrest
    obtain ⟨-, -, -, -, hy⟩ := mem_rowPixels.mp hrow
    obtain ⟨r, hr, -, -, -, -, hy'⟩ := mem_spritePixels.mp hrest
    have hline : py.val = y % 32 := congrArg Fin.val hy
    omega

/-! ## DRW (R86) -/

variable {s t : State} {x y : Reg} {n : Nat} {as : List Nat}

/-- The framebuffer and the collision bit of a DRW whose addresses are `as`. -/
def State.drawn (s : State) (x y : Reg) (as : List Nat) : Framebuffer × Bool :=
  blit (s.readCells as) (s.getV x).toNat (s.getV y).toNat s.fb

theorem exec_drw (has : s.dataAddrs n = .ok as) :
    exec (.drw x y n) s =
      .next ((s.setFb (s.drawn x y as).1).setFlag (s.drawn x y as).2).requestRedraw := orRaise_of_eq_ok has

/-- The pixels a sprite covers are those of its list. -/
theorem spriteCovers_iff (has : s.dataAddrs n = .ok as) {px : Col} {py : Line} :
    s.SpriteCovers x y n px py ↔
      (px, py) ∈ spritePixels (s.getV x).toNat (s.readCells as) (s.getV y).toNat := by
  have hlen : as.length = n := effAddrs_length has
  rw [mem_spritePixels]
  constructor
  · rintro ⟨r, c, a, hr, hc, ha, hbit, hx, hy⟩
    have hr' : r < as.length := hlen ▸ hr
    obtain rfl : as[r] = a := Except.ok.inj ((effAddr_of_effAddrs has hr').symm.trans ha)
    exact ⟨r, by simpa [State.readCells] using hr', c, hc, by simpa [State.readCells] using hbit, hx, hy⟩
  · rintro ⟨r, hr, c, hc, hbit, hx, hy⟩
    have hr' : r < as.length := by simpa [State.readCells] using hr
    exact ⟨r, c, as[r], hlen ▸ hr', hc, effAddr_of_effAddrs has hr', by simpa [State.readCells] using hbit, hx, hy⟩

section Drawn

variable (has : s.dataAddrs n = .ok as) (hn : n ≤ 15)

include has hn

theorem nodup_drawnPixels :
    (spritePixels (s.getV x).toNat (s.readCells as) (s.getV y).toNat).Nodup := by
  have hlen : as.length = n := effAddrs_length has
  refine nodup_spritePixels _ _ ?_
  rw [State.readCells, List.length_map]
  omega

/-- The pixels under the sprite are flipped, and no other. -/
theorem pixel_drawn (px : Col) (py : Line) [Decidable (s.SpriteCovers x y n px py)] :
    pixel (s.drawn x y as).1 px py = (pixel s.fb px py ^^ decide (s.SpriteCovers x y n px py)) := by
  rw [State.drawn, blit, blitRows_eq_blitPixels, pixel_blitPixels (nodup_drawnPixels has hn)]
  simp only [spriteCovers_iff has]

/-- The collision is with a pixel under the sprite that was 1. -/
theorem collision_drawn :
    (s.drawn x y as).2 = true ↔ ∃ px py, s.SpriteCovers x y n px py ∧ pixel s.fb px py = true := by
  rw [State.drawn, blit, blitRows_eq_blitPixels, collision_blitPixels (nodup_drawnPixels has hn)]
  simp only [spriteCovers_iff has, Prod.exists, Bool.false_eq_true, false_or]

end Drawn

theorem flagByte_eq_one_iff (b : Bool) : flagByte b = 1 ↔ b = true := by cases b <;> decide

theorem flagByte_eq_one_or_zero (b : Bool) : flagByte b = 1 ∨ flagByte b = 0 := by cases b <;> decide

/-- What a sprite covers depends on the configuration, the two registers, I and memory only. -/
theorem spriteCovers_congr (hcfg : t.cfg = s.cfg) (hi : t.i = s.i) (hmem : t.mem = s.mem)
    (hx : t.getV x = s.getV x) (hy : t.getV y = s.getV y) {px : Col} {py : Line} :
    t.SpriteCovers x y n px py ↔ s.SpriteCovers x y n px py := by
  simp only [State.SpriteCovers, State.readMem, hcfg, hi, hmem, hx, hy]

end Sys2Proof.Machine
end

section
/-! PROOFS. The obligations of 43_display.md about sprites. -/

namespace Sys2Proof.Machine

/-- Settles O46: a sprite is a list of pixels that all differ, each flipped once. -/
theorem drwXorsSpriteAndReportsCollision : Obligations.DrwXorsSpriteAndReportsCollision := by
  intro x y n s hn
  rw [append_eq_wordRegReg]
  refine ⟨decodeWord_drw x y hn, fun hout hpos => exec_eq_fault_of_outside (i := .drw x y n) hpos hout, fun hin => ?_⟩
  obtain ⟨as, has⟩ := State.dataAddrs_of_fits hin
  classical
  have hpixel := pixel_drawn (x := x) (y := y) has hn
  have hVF : (((s.setFb (s.drawn x y as).1).setFlag (s.drawn x y as).2).requestRedraw).getV 15 =
      flagByte (s.drawn x y as).2 := State.getV_setV_same _ _ _
  refine ⟨_, exec_drw has, fun px py hcov => ?_, fun px py hcov => ?_, ?_, ?_, fun r hr => ?_, rfl⟩
  · exact (hpixel px py).trans (by simp [hcov])
  · exact (hpixel px py).trans (by simp [hcov])
  · rw [hVF]; exact flagByte_eq_one_or_zero _
  · rw [hVF, flagByte_eq_one_iff]; exact collision_drawn has hn
  · exact State.getV_setV_ne (s.setFb (s.drawn x y as).1) _ hr

/-- Settles O47: both draws cover the same pixels, so each is flipped back, and the second collides with those the first
turned on. -/
theorem drwTwiceRestoresFramebuffer : Obligations.DrwTwiceRestoresFramebuffer := by
  intro x y n s hn hx hy hin
  obtain ⟨-, -, hdraw⟩ := drwXorsSpriteAndReportsCollision x y n s hn
  obtain ⟨t, hexec, hflip, hkeep, -, -, hregs, hframe⟩ := hdraw hin
  have hcfg : t.cfg = s.cfg := by rw [hframe]
  have hi : t.i = s.i := by rw [hframe]
  have hmem : t.mem = s.mem := by rw [hframe]
  have hcov {px : Col} {py : Line} : t.SpriteCovers x y n px py ↔ s.SpriteCovers x y n px py :=
    spriteCovers_congr hcfg hi hmem (hregs x hx) (hregs y hy)
  obtain ⟨-, -, hdraw'⟩ := drwXorsSpriteAndReportsCollision x y n t hn
  obtain ⟨u, hexec', hflip', hkeep', -, hcollide, -⟩ := hdraw' (by rwa [State.DataInside, hcfg, hi])
  refine ⟨t, u, hexec, hexec', framebuffer_ext fun px py => ?_, hcollide.trans ?_⟩
  · by_cases h : s.SpriteCovers x y n px py
    · rw [hflip' px py (hcov.mpr h), hflip px py h, Bool.not_not]
    · rw [hkeep' px py (mt hcov.mp h), hkeep px py h]
  · refine exists_congr fun px => exists_congr fun py => and_congr_left fun hset => ?_
    rw [hcov]
    constructor
    · intro h
      simpa [hflip px py h] using hset
    · intro hclear
      by_contra h
      exact absurd (hclear.symm.trans ((hkeep px py h).symm.trans hset)) (by decide)

end Sys2Proof.Machine
end
